-- ==== Sys2Proof/Word.lean ====
section
/-! DEFINITION. The machine words of the codec and nothing else.

Every value is unsigned and bit 0 is the least significant bit (00_scope.md R8). -/

namespace Sys2Proof

/-- A byte, 0 to 255: a payload byte, a wire byte, an 8-bit register (00_scope.md R6). -/
abbrev Byte := BitVec 8

/-- A 16-bit number: a buffer address, a length, a count, a register number, a response's data
(30_encoding.md R95, R97). -/
abbrev Half := BitVec 16

/-- A command word: 32 bits, one command (30_encoding.md R95). -/
abbrev Word := BitVec 32

end Sys2Proof
end

