-- ==== Sys2Proof/Syntax.lean ====
section
/-! DEFINITION. The 17 operations of spec/opcode_table.json as syntax (30_encoding.md R99). -/

namespace Sys2Proof

/-- One operation issued on the command port (00_scope.md R5). The operand `a` is the 16-bit field and
`d` the 8-bit field of the command word (30_encoding.md R95); a format carries only the fields it uses (R96). -/
inductive Instr where
  /-- `CS.RESET` (40_checksum.md R134). -/
  | csReset
  /-- `CS.ADD d` (40_checksum.md R135). -/
  | csAdd (d : Byte)
  /-- `CS.FINALIZE` (40_checksum.md R136). -/
  | csFinalize
  /-- `CS.VERIFY a, d` (40_checksum.md R137). -/
  | csVerify (a : Half) (d : Byte)
  /-- `ESC.NEEDS d` (41_escape.md R153). -/
  | escNeeds (d : Byte)
  /-- `ESC.OUT d` (41_escape.md R154). -/
  | escOut (d : Byte)
  /-- `ESC.IN d` (41_escape.md R155). -/
  | escIn (d : Byte)
  /-- `ENC.START a` (42_encoder.md R175). -/
  | encStart (a : Half)
  /-- `ENC.STEP` (42_encoder.md R176). -/
  | encStep
  /-- `DEC.START` (43_decoder.md R205). -/
  | decStart
  /-- `DEC.BYTE d` (43_decoder.md R206). -/
  | decByte (d : Byte)
  /-- `DEC.TIMEOUT` (43_decoder.md R214). -/
  | decTimeout
  /-- `TXB.WR a, d` (44_buffer_and_csr.md R240). -/
  | txbWr (a : Half) (d : Byte)
  /-- `TXB.RD a` (44_buffer_and_csr.md R241). -/
  | txbRd (a : Half)
  /-- `RXB.RD a` (44_buffer_and_csr.md R242). -/
  | rxbRd (a : Half)
  /-- `CSR.RD a` (44_buffer_and_csr.md R244). -/
  | csrRd (a : Half)
  /-- `CSR.WR a, d` (44_buffer_and_csr.md R245). -/
  | csrWr (a : Half) (d : Byte)
  deriving DecidableEq, Repr

end Sys2Proof
end

