-- ==== Sys2Proof/Decode.lean ====
section
/-! DEFINITION. From a command word to an operation, and back.

The word is `op[31:24] a[23:8] d[7:0]` (30_encoding.md R95); the tests run in the order of R102: first the `op` code,
then the fields that must be zero. The encoder and the table stand after the decoder. -/

namespace Sys2Proof

/-! ### Decoding -/

/-- Why a word spells no operation (30_encoding.md R100). -/
inductive Illegal where
  /-- The `op` code is not in the table of 30_encoding.md R99. -/
  | unassignedOp (op : Byte)
  /-- A field the operation does not use is not zero (30_encoding.md R96). -/
  | fieldNotZero
  deriving DecidableEq, Repr

/-- `op = w[31:24]` (30_encoding.md R95). -/
def fieldOp (w : Word) : Byte := w.extractLsb' 24 8

/-- `a = w[23:8]`, used as it stands (30_encoding.md R95, R101). -/
def fieldA (w : Word) : Half := w.extractLsb' 8 16

/-- `d = w[7:0]`, used as it stands (30_encoding.md R95, R101). -/
def fieldD (w : Word) : Byte := w.extractLsb' 0 8

/-- Format `Z`: both fields must be zero (30_encoding.md R96). -/
def decodeZ (i : Instr) (w : Word) : Except Illegal Instr :=
  if fieldA w = 0 ∧ fieldD w = 0 then .ok i else .error .fieldNotZero

/-- Format `D`: `a` must be zero (30_encoding.md R96). -/
def decodeD (mk : Byte → Instr) (w : Word) : Except Illegal Instr :=
  if fieldA w = 0 then .ok (mk (fieldD w)) else .error .fieldNotZero

/-- Format `A`: `d` must be zero (30_encoding.md R96). -/
def decodeA (mk : Half → Instr) (w : Word) : Except Illegal Instr :=
  if fieldD w = 0 then .ok (mk (fieldA w)) else .error .fieldNotZero

/-- Format `AD`: both fields are operands (30_encoding.md R96). -/
def decodeAD (mk : Half → Byte → Instr) (w : Word) : Except Illegal Instr :=
  .ok (mk (fieldA w) (fieldD w))

/-- The opcode map (30_encoding.md R99): total, every other `op` code is refused by name (R100). -/
def decode (w : Word) : Except Illegal Instr :=
  match (fieldOp w).toNat with
  | 0x10 => decodeZ .csReset w
  | 0x11 => decodeD .csAdd w
  | 0x12 => decodeZ .csFinalize w
  | 0x13 => decodeAD .csVerify w
  | 0x20 => decodeD .escNeeds w
  | 0x21 => decodeD .escOut w
  | 0x22 => decodeD .escIn w
  | 0x30 => decodeA .encStart w
  | 0x31 => decodeZ .encStep w
  | 0x40 => decodeZ .decStart w
  | 0x41 => decodeD .decByte w
  | 0x42 => decodeZ .decTimeout w
  | 0x50 => decodeAD .txbWr w
  | 0x51 => decodeA .txbRd w
  | 0x52 => decodeA .rxbRd w
  | 0x60 => decodeA .csrRd w
  | 0x61 => decodeAD .csrWr w
  | _ => .error (.unassignedOp (fieldOp w))

/-! ### Encoding -/

/-- The word with the fields `op`, `a`, `d`: as a number `op * 2^24 + a * 2^8 + d` (30_encoding.md R95). -/
def mkWord (op : Byte) (a : Half) (d : Byte) : Word := op ++ a ++ d

/-- The command word of an operation; an unused field is 0 (30_encoding.md R96, R99). -/
def encode : Instr → Word
  | .csReset => mkWord 0x10 0 0
  | .csAdd d => mkWord 0x11 0 d
  | .csFinalize => mkWord 0x12 0 0
  | .csVerify a d => mkWord 0x13 a d
  | .escNeeds d => mkWord 0x20 0 d
  | .escOut d => mkWord 0x21 0 d
  | .escIn d => mkWord 0x22 0 d
  | .encStart a => mkWord 0x30 a 0
  | .encStep => mkWord 0x31 0 0
  | .decStart => mkWord 0x40 0 0
  | .decByte d => mkWord 0x41 0 d
  | .decTimeout => mkWord 0x42 0 0
  | .txbWr a d => mkWord 0x50 a d
  | .txbRd a => mkWord 0x51 a 0
  | .rxbRd a => mkWord 0x52 a 0
  | .csrRd a => mkWord 0x60 a 0
  | .csrWr a d => mkWord 0x61 a d

/-! ### The machine-readable table (spec/opcode_table.json) -/

/-- The four formats (30_encoding.md R96). -/
inductive Format where
  | z | d | a | ad
  deriving DecidableEq, Repr

/-- One row of spec/opcode_table.json. -/
structure OpRow where
  mnemonic : String
  format : Format
  code : Word
  mask : Word
  deriving DecidableEq, Repr

/-- The bits that must match in a format (30_encoding.md R96, the `mask` column). -/
def Format.mask : Format → Word
  | .z => 0xFFFFFFFF
  | .d => 0xFFFFFF00
  | .a => 0xFF0000FF
  | .ad => 0xFF000000

/-- The row of an operation: its mnemonic, format, match word and mask. -/
def opRow : Instr → OpRow
  | .csReset => ⟨"CS.RESET", .z, 0x10000000, 0xFFFFFFFF⟩
  | .csAdd _ => ⟨"CS.ADD", .d, 0x11000000, 0xFFFFFF00⟩
  | .csFinalize => ⟨"CS.FINALIZE", .z, 0x12000000, 0xFFFFFFFF⟩
  | .csVerify _ _ => ⟨"CS.VERIFY", .ad, 0x13000000, 0xFF000000⟩
  | .escNeeds _ => ⟨"ESC.NEEDS", .d, 0x20000000, 0xFFFFFF00⟩
  | .escOut _ => ⟨"ESC.OUT", .d, 0x21000000, 0xFFFFFF00⟩
  | .escIn _ => ⟨"ESC.IN", .d, 0x22000000, 0xFFFFFF00⟩
  | .encStart _ => ⟨"ENC.START", .a, 0x30000000, 0xFF0000FF⟩
  | .encStep => ⟨"ENC.STEP", .z, 0x31000000, 0xFFFFFFFF⟩
  | .decStart => ⟨"DEC.START", .z, 0x40000000, 0xFFFFFFFF⟩
  | .decByte _ => ⟨"DEC.BYTE", .d, 0x41000000, 0xFFFFFF00⟩
  | .decTimeout => ⟨"DEC.TIMEOUT", .z, 0x42000000, 0xFFFFFFFF⟩
  | .txbWr _ _ => ⟨"TXB.WR", .ad, 0x50000000, 0xFF000000⟩
  | .txbRd _ => ⟨"TXB.RD", .a, 0x51000000, 0xFF0000FF⟩
  | .rxbRd _ => ⟨"RXB.RD", .a, 0x52000000, 0xFF0000FF⟩
  | .csrRd _ => ⟨"CSR.RD", .a, 0x60000000, 0xFF0000FF⟩
  | .csrWr _ _ => ⟨"CSR.WR", .ad, 0x61000000, 0xFF000000⟩

/-- One instruction of each operation, in the table's order. -/
def opSamples : List Instr :=
  [.csReset, .csAdd 0, .csFinalize, .csVerify 0 0, .escNeeds 0, .escOut 0, .escIn 0, .encStart 0, .encStep,
   .decStart, .decByte 0, .decTimeout, .txbWr 0 0, .txbRd 0, .rxbRd 0, .csrRd 0, .csrWr 0 0]

/-- The 17 rows of spec/opcode_table.json. -/
def opcodeTable : List OpRow := opSamples.map opRow

/-- `w` selects the row: `(w & mask) == match` (30_encoding.md R96). -/
def OpRow.selects (r : OpRow) (w : Word) : Bool := w &&& r.mask == r.code

/-! ### The host's reading of a table row -/

/-- The operation the decoder reads from the low `nbits` bits of `w`; a command is one 32-bit word, so no other bits
exist and no byte order applies (30_encoding.md R95; 20_memory.md R62). -/
def decodeTableWord (nbits w : Nat) : Option Instr :=
  (decode (BitVec.ofNat 32 (w % 2 ^ nbits))).toOption

end Sys2Proof
end

