-- ==== Sys2Proof/Config.lean ====
section
/-! DEFINITION. What is fixed for the block (00_scope.md R6, R7) and the two free values (R7, R76, R77). -/

namespace Sys2Proof

/-- `DELIM`, the frame delimiter (00_scope.md R6). -/
def Config.delim : Byte := 0x7E

/-- `ESC`, the escape marker (00_scope.md R6). -/
def Config.esc : Byte := 0x7D

/-- `XMASK`, the transform's mask (00_scope.md R6). -/
def Config.xmask : Byte := 0x20

/-- `CK_BASE`, from which the sum is subtracted (00_scope.md R6). -/
def Config.ckBase : Byte := 0xFF

/-- The reserved byte set as the 256-bit constant `2^17 + 2^19 + 2^125 + 2^126`: bit `i` stands for
byte value `i` (41_escape.md R152). -/
def Config.reservedTable : BitVec 256 := BitVec.ofNat 256 (2 ^ 17 + 2 ^ 19 + 2 ^ 125 + 2 ^ 126)

/-- `BUF_SIZE`, the bytes in `TXBUF` and in `RXBUF` (00_scope.md R7). -/
def Config.bufSize : Nat := 65536

/-- `PAYLOAD_MAX`, the largest payload length (00_scope.md R7). -/
def Config.payloadMax : Nat := 65535

/-- `LENBE_RESET`, the length byte order after reset: low byte first (00_scope.md R7, 10_state.md R34). -/
def Config.lenbeReset : Bool := false

/-- `TXBUF_INIT`: what a `TXBUF` location holds that no `TXB.WR` has written since power-up.
A FREE VALUE without a body: stable by address, and no claim can depend on it (20_memory.md R76; log 5). -/
opaque Config.txbufInit : Half → Byte

/-- `RXBUF_INIT`: what an `RXBUF` location holds that the decoder has never written.
A FREE VALUE without a body; it never reaches a response in a run from reset (20_memory.md R77; log 6). -/
opaque Config.rxbufInit : Half → Byte

end Sys2Proof
end

