-- ==== Sys2Proof/Machine/State.lean ====
section
/-! DEFINITION. The state: the block's own (10_state.md R20, the structure `Codec`) and the model's record of the
command port and the two wires (20_memory.md R60, 10_state.md R38). -/

namespace Sys2Proof.Machine

/-- `ENC.state`, one constructor per code 0 to 6; code 7 is never written and unreachable (10_state.md R25, R39; log 10).
Each names what the next `ENC.STEP` emits. -/
inductive EncState where
  | idle | delim | len0 | len1 | data | esc | csum
  deriving DecidableEq, Repr

/-- `DEC.state`, one constructor per code 0 to 6; code 7 is never written and unreachable (10_state.md R27, R39; log 10).
Each names what the next `DEC.BYTE` is taken as. -/
inductive DecState where
  | idle | delim | len0 | len1 | data | esc | csum
  deriving DecidableEq, Repr

/-- `DEC.result`, the outcome register: codes 0 to 4, codes 5 to 7 never written (10_state.md R31; log 10). -/
inductive DecResult where
  /-- 0 `R_NONE`. -/
  | none
  /-- 1 `R_SUCCESS`. -/
  | success
  /-- 2 `R_CHECKSUM`. -/
  | checksum
  /-- 3 `R_FRAMING`. -/
  | framing
  /-- 4 `R_TIMEOUT`. -/
  | timeout
  deriving DecidableEq, Repr

/-- A 65536-byte buffer, as the list of the locations written since power-up, in one canonical form (`Memory.wf`).
A location not listed is unwritten (log 7). -/
abbrev Memory := List Host.Cell

/-- The block's architectural state `S`, "exactly the following fields and nothing else", one component per row of the
table of 10_state.md R20. -/
structure Codec where
  /-- `CFG.LENBE`: high byte of a length first. -/
  cfgLenbe : Bool
  /-- `CS0.sum`. -/
  cs0Sum : Byte
  /-- `ENC.state`. -/
  encState : EncState
  /-- `ENC.len`. -/
  encLen : Half
  /-- `ENC.cnt`. -/
  encCnt : Half
  /-- `TXCS.sum`. -/
  txcsSum : Byte
  /-- `ENC.hold`, hidden (10_state.md R37). -/
  encHold : Byte
  /-- `DEC.state`. -/
  decState : DecState
  /-- `DEC.len`. -/
  decLen : Half
  /-- `DEC.cnt`. -/
  decCnt : Half
  /-- `RXCS.sum`. -/
  rxcsSum : Byte
  /-- `DEC.result`. -/
  decResult : DecResult
  /-- `DEC.expected`. -/
  decExpected : Byte
  /-- `DEC.received`. -/
  decReceived : Byte
  /-- `DEC.estate`: the `DEC.state` in which the last error outcome arose, `idle` (code 0) where there is none. -/
  decEstate : DecState
  /-- `TXBUF`. -/
  txbuf : Memory
  /-- `RXBUF`. -/
  rxbuf : Memory
  deriving DecidableEq, Repr

/-- A response's status (30_encoding.md R98). -/
inductive Status where
  /-- `0x00`: the operation was performed. -/
  | ok
  /-- `0x01`: the word spells no operation. -/
  | errIllegal
  /-- `0x02`: the unit is in the middle of a frame. -/
  | errBusy
  /-- `0x03`: the unit has no frame in progress. -/
  | errIdle
  /-- `0x04`: no valid received byte at that address. -/
  | errNodata
  deriving DecidableEq, Repr

/-- The answer to one command (30_encoding.md R97). -/
structure Response where
  status : Status
  data : Half
  deriving DecidableEq, Repr

/-- What can reach the block from outside: a command word on the command port, or the reset input, which is no command
and has no response (70_reset_and_hazards.md R300; log 1, log 4). -/
inductive PortEvent where
  | command (w : Word)
  | reset
  deriving DecidableEq, Repr

/-- The whole machine: the block, and what passes through its interface. -/
structure State where
  /-- The block's architectural state. -/
  codec : Codec
  /-- Events issued and not yet delivered, oldest first (log 1). -/
  pending : List PortEvent
  /-- The responses given, oldest first (00_scope.md R10; log 8). -/
  responses : List Response
  /-- The transmit wire history, first byte first (10_state.md R38 (b), 20_memory.md R74; log 9). -/
  txWire : List Byte
  /-- The receive wire history: the bytes taken, first byte first (10_state.md R38 (c), 20_memory.md R75; log 9). -/
  rxWire : List Byte
  deriving DecidableEq, Repr

/-- Why the machine stops. NOTHING RAISES ONE: "No error stops the block, locks it, or needs reset to clear"
(60_exceptions.md R260), so there is no constructor; safe. -/
inductive Fault where
  deriving DecidableEq, Repr

/-- Why an instruction has no meaning. -/
inductive Refusal where
  /-- Raised by an arm of `exec` whose instruction has no meaning yet, and by nothing else; no arm raises it now.
  Safe: the machine stops. -/
  | notModelled (mnemonic : String)
  deriving DecidableEq, Repr

/-- The block's registers after reset (70_reset_and_hazards.md R300), with buffers that nothing has written: the state
right after power-up. -/
def Codec.reset : Codec where
  cfgLenbe := Config.lenbeReset
  cs0Sum := 0
  encState := .idle
  encLen := 0
  encCnt := 0
  txcsSum := 0
  encHold := 0
  decState := .idle
  decLen := 0
  decCnt := 0
  rxcsSum := 0
  decResult := .none
  decExpected := 0
  decReceived := 0
  decEstate := .idle
  txbuf := []
  rxbuf := []

/-- The machine right after reset: nothing issued, nothing answered, nothing on the wires (70_reset_and_hazards.md R300;
log 3). -/
def State.reset : State where
  codec := Codec.reset
  pending := []
  responses := []
  txWire := []
  rxWire := []

end Sys2Proof.Machine
end

