-- ==== Sys2Proof/Machine/Ops.lean ====
section
/-! DEFINITION. The named operations over buffers, registers and the port that every meaning shares
(00_scope.md R9): buffer access, the response and the refusal, the two wires, entering and leaving an error outcome,
reset. -/

namespace Sys2Proof.Machine

/-! ### Codes -/

/-- The 3-bit code of `ENC.state` (10_state.md R25). -/
def EncState.code : EncState → BitVec 3
  | .idle => 0
  | .delim => 1
  | .len0 => 2
  | .len1 => 3
  | .data => 4
  | .esc => 5
  | .csum => 6

/-- The 3-bit code of `DEC.state` (10_state.md R27). -/
def DecState.code : DecState → BitVec 3
  | .idle => 0
  | .delim => 1
  | .len0 => 2
  | .len1 => 3
  | .data => 4
  | .esc => 5
  | .csum => 6

/-- The 3-bit code of `DEC.result` (10_state.md R31). -/
def DecResult.code : DecResult → BitVec 3
  | .none => 0
  | .success => 1
  | .checksum => 2
  | .framing => 3
  | .timeout => 4

/-- The 8-bit status code (30_encoding.md R98). -/
def Status.code : Status → Byte
  | .ok => 0x00
  | .errIllegal => 0x01
  | .errBusy => 0x02
  | .errIdle => 0x03
  | .errNodata => 0x04

/-- The 24-bit response word: `status[23:16] data[15:0]` (30_encoding.md R97). -/
def Response.word (r : Response) : BitVec 24 := r.status.code ++ r.data

/-! ### Buffers (20_memory.md R60, R64, R76) -/

/-- The byte written at an address, or `none` where nothing has been written since power-up: what an unlisted address
looks up as (log 7). -/
def Memory.lookup : Memory → Nat → Option Byte
  | [], _ => none
  | (k, b) :: m, a => if a = k then some b else Memory.lookup m a

/-- Store a byte, keeping the addresses strictly rising. -/
def Memory.write : Memory → Nat → Byte → Memory
  | [], a, v => [(a, v)]
  | (k, b) :: m, a, v =>
    if a < k then (a, v) :: (k, b) :: m
    else if a = k then (a, v) :: m
    else (k, b) :: Memory.write m a v

/-- The canonical form: addresses strictly rising, every address inside the buffer. No entry can equal what an unlisted
address looks up as, which is `none` (log 7). -/
abbrev Memory.wf (m : Memory) : Prop :=
  m.Pairwise (fun x y => x.1 < y.1) ∧ ∀ c ∈ m, c.1 < Config.bufSize

/-- `MemRead(TXBUF, a, 1)`: an unwritten location holds its stable unspecified byte (20_memory.md R76). -/
def Codec.readTx (c : Codec) (a : Half) : Byte := (c.txbuf.lookup a.toNat).getD (Config.txbufInit a)

/-- `MemRead(RXBUF, a, 1)` (20_memory.md R77). -/
def Codec.readRx (c : Codec) (a : Half) : Byte := (c.rxbuf.lookup a.toNat).getD (Config.rxbufInit a)

/-- `MemWrite(TXBUF, a, 1, v)` (00_scope.md R9). -/
def Codec.writeTx (c : Codec) (a : Half) (v : Byte) : Codec := { c with txbuf := c.txbuf.write a.toNat v }

/-- `MemWrite(RXBUF, a, 1, v)` (00_scope.md R9). -/
def Codec.writeRx (c : Codec) (a : Half) (v : Byte) : Codec := { c with rxbuf := c.rxbuf.write a.toNat v }

/-! ### Responses and wires -/

/-- `resp(status, data)`: the one response of the current command (00_scope.md R9, 30_encoding.md R97). -/
def State.respond (s : State) (status : Status) (data : Half) : State :=
  { s with responses := s.responses ++ [⟨status, data⟩] }

/-- `refuse(status)`: the response has data 0 and no state changes at all (00_scope.md R9, 60_exceptions.md R266). -/
def State.refuse (s : State) (status : Status) : State := s.respond status 0

/-- Put a byte on the transmit wire (20_memory.md R74). -/
def State.emit (s : State) (b : Byte) : State := { s with txWire := s.txWire ++ [b] }

/-- Take a byte off the receive wire (20_memory.md R75). -/
def State.consume (s : State) (b : Byte) : State := { s with rxWire := s.rxWire ++ [b] }

/-- Replace the block's state. -/
def State.setCodec (s : State) (c : Codec) : State := { s with codec := c }

/-! ### Entering and leaving an error outcome (60_exceptions.md R265, R275) -/

/-- A decode ends in an error: the cause is saved in `DEC.result`, the state it arose in in `DEC.estate`, and the decoder
goes idle; nothing else changes (60_exceptions.md R265). -/
def Codec.endInError (c : Codec) (cause : DecResult) : Codec :=
  { c with decResult := cause, decEstate := c.decState, decState := .idle }

/-- The decoder leaves an outcome and is armed: every `DEC.*` register and `RXCS.sum` is cleared, `RXBUF` is not
(60_exceptions.md R275, 43_decoder.md R205). -/
def Codec.armDecoder (c : Codec) : Codec :=
  { c with
    decLen := 0, decCnt := 0, rxcsSum := 0, decResult := .none, decExpected := 0, decReceived := 0,
    decEstate := .idle, decState := .delim }

/-! ### Reset (70_reset_and_hazards.md R300) -/

/-- The reset input: every register takes its reset value, the two buffers are not touched. -/
def Codec.applyReset (c : Codec) : Codec := { Codec.reset with txbuf := c.txbuf, rxbuf := c.rxbuf }

/-- Reset as it reaches the machine: no response, and the wires keep what has gone over them
(70_reset_and_hazards.md R300, R301). -/
def State.applyReset (s : State) : State := s.setCodec s.codec.applyReset

/-! ### The command port -/

/-- The next event on the port, and the machine with it taken off (log 1). -/
def State.takeEvent (s : State) : Option (PortEvent × State) :=
  match s.pending with
  | [] => none
  | e :: rest => some (e, { s with pending := rest })

/-- The word placed on the port before everything that is pending. -/
def State.offerFirst (s : State) (w : Word) : State := { s with pending := .command w :: s.pending }

end Sys2Proof.Machine
end

