-- ==== Sys2Proof/Machine/Operands.lean ====
section
/-! DEFINITION. Operand and result forms: widening, the two bytes of a length, the control register views.

Buffer operations have the one addressing mode "absolute", the operand itself (44_buffer_and_csr.md R243); the sequencers
address their buffers by their count. -/

namespace Sys2Proof.Machine

/-- `zext_16` of a byte (00_scope.md R8). -/
def zext (b : Byte) : Half := b.setWidth 16

/-- A verdict as response data: 1 or 0 (30_encoding.md R99). -/
def verdict (b : Bool) : Half := if b then 1 else 0

/-! ### The length field (20_memory.md R61, 30_encoding.md R91) -/

/-- `v[7:0]`. -/
def lowByte (v : Half) : Byte := v.extractLsb' 0 8

/-- `v[15:8]`. -/
def highByte (v : Half) : Byte := v.extractLsb' 8 8

/-- The first length byte on the wire: `CFG.LENBE ? len[15:8] : len[7:0]` (42_encoder.md R176). -/
def lenFirst (lenbe : Bool) (len : Half) : Byte := if lenbe then highByte len else lowByte len

/-- The second length byte on the wire: `CFG.LENBE ? len[7:0] : len[15:8]` (42_encoder.md R176). -/
def lenSecond (lenbe : Bool) (len : Half) : Byte := if lenbe then lowByte len else highByte len

/-- The length register after the first byte: `CFG.LENBE ? (d, 0x00) : (0x00, d)`, high bits first (43_decoder.md R208). -/
def lenAfterFirst (lenbe : Bool) (d : Byte) : Half := if lenbe then d ++ (0 : Byte) else (0 : Byte) ++ d

/-- The length register after the second byte: `CFG.LENBE ? (len[15:8], d) : (d, len[7:0])`, high bits first
(43_decoder.md R209). -/
def lenAfterSecond (lenbe : Bool) (len : Half) (d : Byte) : Half :=
  if lenbe then highByte len ++ d else d ++ lowByte len

/-! ### The control register file (10_state.md R33) -/

/-- The fourteen control registers, in the order of their numbers. -/
inductive Csr where
  | cfg | cs0Sum | encState | encLen | encCnt | encSum | decState | decLen | decCnt | decSum | decResult
  | decExpected | decReceived | decEstate
  deriving DecidableEq, Repr

/-- The register of a number; numbers above `0x000D` are no registers (10_state.md R33). -/
def csrOfNumber (a : Half) : Option Csr :=
  match a.toNat with
  | 0x0000 => some .cfg
  | 0x0001 => some .cs0Sum
  | 0x0002 => some .encState
  | 0x0003 => some .encLen
  | 0x0004 => some .encCnt
  | 0x0005 => some .encSum
  | 0x0006 => some .decState
  | 0x0007 => some .decLen
  | 0x0008 => some .decCnt
  | 0x0009 => some .decSum
  | 0x000A => some .decResult
  | 0x000B => some .decExpected
  | 0x000C => some .decReceived
  | 0x000D => some .decEstate
  | _ => none

/-- The number of a register (10_state.md R33). -/
def Csr.number : Csr → Half
  | .cfg => 0x0000
  | .cs0Sum => 0x0001
  | .encState => 0x0002
  | .encLen => 0x0003
  | .encCnt => 0x0004
  | .encSum => 0x0005
  | .decState => 0x0006
  | .decLen => 0x0007
  | .decCnt => 0x0008
  | .decSum => 0x0009
  | .decResult => 0x000A
  | .decExpected => 0x000B
  | .decReceived => 0x000C
  | .decEstate => 0x000D

/-- A control register's value: the field it shows, zero-extended to 16 bits; no read has a side effect
(10_state.md R33, R35). -/
def Codec.csrView (c : Codec) : Csr → Half
  | .cfg => verdict c.cfgLenbe
  | .cs0Sum => zext c.cs0Sum
  | .encState => c.encState.code.setWidth 16
  | .encLen => c.encLen
  | .encCnt => c.encCnt
  | .encSum => zext c.txcsSum
  | .decState => c.decState.code.setWidth 16
  | .decLen => c.decLen
  | .decCnt => c.decCnt
  | .decSum => zext c.rxcsSum
  | .decResult => c.decResult.code.setWidth 16
  | .decExpected => zext c.decExpected
  | .decReceived => zext c.decReceived
  | .decEstate => c.decEstate.code.setWidth 16

/-- The control register number names no register, or one that is read-only: `CFG` alone is writable
(10_state.md R33, R35). -/
def csrWriteIllegal (a : Half) : Bool := a != 0x0000

/-- A value for `CFG` with a reserved bit, 7 to 1, set (10_state.md R34). -/
def cfgValueIllegal (d : Byte) : Bool := d.extractLsb' 1 7 != 0

end Sys2Proof.Machine
end

