-- ==== Sys2Proof/Machine/Flags.lean ====
section
/-! DEFINITION. The predicates that act as flags. The block keeps no arithmetic flag and stores none of these
(10_state.md R30). -/

namespace Sys2Proof.Machine

/-- `enc_busy := (ENC.state != E_IDLE)` (10_state.md R30). -/
def Codec.encBusy (c : Codec) : Bool := c.encState != .idle

/-- `dec_busy := (DEC.state != D_IDLE)` (10_state.md R30). -/
def Codec.decBusy (c : Codec) : Bool := c.decState != .idle

/-- There is a valid received payload byte at `a`: `DEC.result == R_SUCCESS` and `a < DEC.len`
(20_memory.md R68, 44_buffer_and_csr.md R242). -/
def Codec.rxValid (c : Codec) (a : Half) : Bool := c.decResult == .success && decide (a.toNat < c.decLen.toNat)

end Sys2Proof.Machine
end

