-- ==== Sys2Proof/Machine/Checksum.lean ====
section
/-! DEFINITION. The ChecksumEngine: its functions, which all three instances obey (40_checksum.md R130 to R133), and the
four operations on `CS0` (R134 to R137). -/

namespace Sys2Proof.Machine

/-- What an execution answers. -/
abbrev Outcome := Host.Outcome State Fault Refusal

/-- `reset`: the cleared accumulator (40_checksum.md R130). -/
def csZero : Byte := 0

/-- `add`: `CSadd(s, b) = (s + b) & 0xFF`, the carry out of bit 7 dropped (40_checksum.md R131). -/
def csAdd (sum b : Byte) : Byte := sum + b

/-- `finalize`: `CSfin(s) = (0xFF - (s & 0xFF)) & 0xFF` (40_checksum.md R132). -/
def csFin (sum : Byte) : Byte := Config.ckBase - sum

/-- `verify`: `CSver(s, c) = (((s + c) & 0xFF) == 0xFF)`, of a sum of any width (40_checksum.md R133). -/
def csVer (sum : Nat) (c : Byte) : Bool := (sum + c.toNat) % 256 == 0xFF

/-- `CS.RESET` (40_checksum.md R134). -/
def execCsReset (s : State) : Outcome :=
  .next ((s.setCodec { s.codec with cs0Sum := csZero }).respond .ok 0)

/-- `CS.ADD d` (40_checksum.md R135). -/
def execCsAdd (d : Byte) (s : State) : Outcome :=
  .next ((s.setCodec { s.codec with cs0Sum := csAdd s.codec.cs0Sum d }).respond .ok 0)

/-- `CS.FINALIZE` (40_checksum.md R136). -/
def execCsFinalize (s : State) : Outcome :=
  .next (s.respond .ok (zext (csFin s.codec.cs0Sum)))

/-- `CS.VERIFY a, d` (40_checksum.md R137). -/
def execCsVerify (a : Half) (d : Byte) (s : State) : Outcome :=
  .next (s.respond .ok (verdict (csVer a.toNat d)))

end Sys2Proof.Machine
end

