-- ==== Sys2Proof/Machine/Buffer.lean ====
section
/-! DEFINITION. The buffer operations: `TXB.WR`, `TXB.RD`, `RXB.RD` (44_buffer_and_csr.md R240 to R243). -/

namespace Sys2Proof.Machine

/-- `TXB.WR a, d` (44_buffer_and_csr.md R240). -/
def execTxbWr (a : Half) (d : Byte) (s : State) : Outcome :=
  .next (if s.codec.encBusy then s.refuse .errBusy else (s.setCodec (s.codec.writeTx a d)).respond .ok 0)

/-- `TXB.RD a` (44_buffer_and_csr.md R241): never busy. -/
def execTxbRd (a : Half) (s : State) : Outcome :=
  .next (s.respond .ok (zext (s.codec.readTx a)))

/-- `RXB.RD a` (44_buffer_and_csr.md R242). -/
def execRxbRd (a : Half) (s : State) : Outcome :=
  .next (if s.codec.rxValid a then s.respond .ok (zext (s.codec.readRx a)) else s.refuse .errNodata)

end Sys2Proof.Machine
end

