-- ==== Sys2Proof/Machine/Csr.lean ====
section
/-! DEFINITION. The control-register operations: `CSR.RD` and `CSR.WR` (44_buffer_and_csr.md R244, R245). -/

namespace Sys2Proof.Machine

/-- `CSR.RD a` (44_buffer_and_csr.md R244): every register can be read at any time. -/
def execCsrRd (a : Half) (s : State) : Outcome :=
  .next (match csrOfNumber a with
    | none => s.refuse .errIllegal
    | some r => s.respond .ok (s.codec.csrView r))

/-- `CSR.WR a, d` (44_buffer_and_csr.md R245), its refusals in the order of 60_exceptions.md R270. -/
def execCsrWr (a : Half) (d : Byte) (s : State) : Outcome :=
  .next (if csrWriteIllegal a then s.refuse .errIllegal
    else if cfgValueIllegal d then s.refuse .errIllegal
    else if s.codec.encBusy || s.codec.decBusy then s.refuse .errBusy
    else (s.setCodec { s.codec with cfgLenbe := d.getLsbD 0 }).respond .ok 0)

end Sys2Proof.Machine
end

