-- ==== Sys2Proof/Machine/Escape.lean ====
section
/-! DEFINITION. The EscapeCodec: its two functions (41_escape.md R150 to R152) and the three operations that expose them
(R153 to R155). It has no state. -/

namespace Sys2Proof.Machine

/-- `needsEscape(b) = LUT[b]`, the constant table read at `b` (41_escape.md R150, R152). -/
def needsEscape (b : Byte) : Bool := Config.reservedTable.getLsbD b.toNat

/-- `x20(b) = b ^ 0x20`, both `escapeOut` and `unescapeIn` (41_escape.md R151). -/
def x20 (b : Byte) : Byte := b ^^^ Config.xmask

/-- `ESC.NEEDS d` (41_escape.md R153). -/
def execEscNeeds (d : Byte) (s : State) : Outcome :=
  .next (s.respond .ok (verdict (needsEscape d)))

/-- `ESC.OUT d` (41_escape.md R154). -/
def execEscOut (d : Byte) (s : State) : Outcome :=
  .next (s.respond .ok (zext (x20 d)))

/-- `ESC.IN d` (41_escape.md R155). -/
def execEscIn (d : Byte) (s : State) : Outcome :=
  .next (s.respond .ok (zext (x20 d)))

end Sys2Proof.Machine
end

