-- ==== Sys2Proof/Machine/Decoder.lean ====
section
/-! DEFINITION. The FrameDecoder: `DEC.START` (43_decoder.md R205), `DEC.BYTE` (R206, by cases R207 to R213) and
`DEC.TIMEOUT` (R214). -/

namespace Sys2Proof.Machine

/-- `DEC.START` (43_decoder.md R205). -/
def execDecStart (s : State) : Outcome :=
  .next (if s.codec.decBusy then s.refuse .errBusy else (s.setCodec s.codec.armDecoder).respond .ok 0)

/-! ### The cases of `DEC.BYTE`

Each gives the block after the byte and the result code it answers: `R_NONE` while the decode goes on, the outcome where
this byte ended it (43_decoder.md R206). -/

/-- `DEC.BYTE d` in `D_DELIM` (43_decoder.md R207). -/
def Codec.takeDelim (c : Codec) (d : Byte) : Codec × DecResult :=
  if d = Config.delim then ({ c with decState := .len0 }, .none) else (c.endInError .framing, .framing)

/-- `DEC.BYTE d` in `D_LEN0` (43_decoder.md R208). -/
def Codec.takeLen0 (c : Codec) (d : Byte) : Codec × DecResult :=
  ({ c with decLen := lenAfterFirst c.cfgLenbe d, decState := .len1 }, .none)

/-- `DEC.BYTE d` in `D_LEN1` (43_decoder.md R209). -/
def Codec.takeLen1 (c : Codec) (d : Byte) : Codec × DecResult :=
  let n := lenAfterSecond c.cfgLenbe c.decLen d
  ({ c with decLen := n, decState := if n = 0 then .csum else .data }, .none)

/-- `append(v)` (43_decoder.md R212): the logical byte goes to `RXBUF` at `DEC.cnt` and into the sum; the count is
compared as an integer (00_scope.md R8). -/
def Codec.append (c : Codec) (v : Byte) : Codec :=
  { c.writeRx c.decCnt v with
    rxcsSum := csAdd c.rxcsSum v
    decCnt := c.decCnt + 1
    decState := if c.decCnt.toNat + 1 = c.decLen.toNat then .csum else .data }

/-- `DEC.BYTE d` in `D_DATA` (43_decoder.md R210): only the escape marker is special. -/
def Codec.takeData (c : Codec) (d : Byte) : Codec × DecResult :=
  if d = Config.esc then ({ c with decState := .esc }, .none) else (c.append d, .none)

/-- `DEC.BYTE d` in `D_ESC` (43_decoder.md R211): any byte is transformed and taken. -/
def Codec.takeEsc (c : Codec) (d : Byte) : Codec × DecResult := (c.append (x20 d), .none)

/-- `DEC.BYTE d` in `D_CSUM` (43_decoder.md R213): ReadChecksum, then Validate. -/
def Codec.takeCsum (c : Codec) (d : Byte) : Codec × DecResult :=
  let c' := { c with decReceived := d, decExpected := csFin c.rxcsSum }
  if csVer c.rxcsSum.toNat d then ({ c' with decResult := .success, decState := .idle }, .success)
  else (c'.endInError .checksum, .checksum)

/-- The decoder's one move on a wire byte; `none` where it is not armed (43_decoder.md R206, R215). -/
def Codec.decMove (c : Codec) (d : Byte) : Option (Codec × DecResult) :=
  match c.decState with
  | .idle => none
  | .delim => some (c.takeDelim d)
  | .len0 => some (c.takeLen0 d)
  | .len1 => some (c.takeLen1 d)
  | .data => some (c.takeData d)
  | .esc => some (c.takeEsc d)
  | .csum => some (c.takeCsum d)

/-- A result code as response data (30_encoding.md R99, `[2:0]`). -/
def resultData (r : DecResult) : Half := r.code.setWidth 16

/-- `DEC.BYTE d` (43_decoder.md R206). -/
def execDecByte (d : Byte) (s : State) : Outcome :=
  .next (match s.codec.decMove d with
    | none => s.refuse .errIdle
    | some (c, r) => ((s.setCodec c).consume d).respond .ok (resultData r))

/-- `DEC.TIMEOUT` (43_decoder.md R214): no wire byte is taken. -/
def execDecTimeout (s : State) : Outcome :=
  .next (if s.codec.decBusy then
      (s.setCodec (s.codec.endInError .timeout)).respond .ok (resultData .timeout)
    else s.refuse .errIdle)

end Sys2Proof.Machine
end

