-- ==== Sys2Proof/Machine/Encoder.lean ====
section
/-! DEFINITION. The FrameEncoder: `ENC.START` (42_encoder.md R175) and `ENC.STEP` (R176), one wire byte a step. -/

namespace Sys2Proof.Machine

/-- A frame of length `n` is started (42_encoder.md R175); `ENC.hold` and `TXBUF` are left as they are. -/
def Codec.startFrame (c : Codec) (n : Half) : Codec :=
  { c with encLen := n, encCnt := 0, txcsSum := csZero, encState := .delim }

/-- `ENC.START a` (42_encoder.md R175). -/
def execEncStart (a : Half) (s : State) : Outcome :=
  .next (if s.codec.encBusy then s.refuse .errBusy else (s.setCodec (s.codec.startFrame a)).respond .ok 0)

/-- `(count == ENC.len) ? E_CSUM : E_DATA`, the count being the one after the step, as an integer (42_encoder.md R176,
00_scope.md R8). -/
def Codec.encAfter (c : Codec) (count : Nat) : EncState := if count = c.encLen.toNat then .csum else .data

/-- `ENC.STEP` in `E_DATA`: fetch the byte at `ENC.cnt`, add the ORIGINAL byte, and emit it or the escape marker
(42_encoder.md R176). -/
def Codec.encData (c : Codec) : Codec × Byte :=
  let b := c.readTx c.encCnt
  let c' := { c with txcsSum := csAdd c.txcsSum b, encCnt := c.encCnt + 1 }
  if needsEscape b then ({ c' with encHold := b, encState := .esc }, Config.esc)
  else ({ c' with encState := c.encAfter (c.encCnt.toNat + 1) }, b)

/-- The encoder's one move, with the wire byte it emits; `none` where no frame is in progress (42_encoder.md R176, R177).
The checksum byte is NOT escaped. -/
def Codec.encMove (c : Codec) : Option (Codec × Byte) :=
  match c.encState with
  | .idle => none
  | .delim => some ({ c with encState := .len0 }, Config.delim)
  | .len0 => some ({ c with encState := .len1 }, lenFirst c.cfgLenbe c.encLen)
  | .len1 => some ({ c with encState := c.encAfter 0 }, lenSecond c.cfgLenbe c.encLen)
  | .data => some c.encData
  | .esc => some ({ c with encState := c.encAfter c.encCnt.toNat }, x20 c.encHold)
  | .csum => some ({ c with encState := .idle }, csFin c.txcsSum)

/-- `ENC.STEP` (42_encoder.md R176). -/
def execEncStep (s : State) : Outcome :=
  .next (match s.codec.encMove with
    | none => s.refuse .errIdle
    | some (c, b) => ((s.setCodec c).emit b).respond .ok (zext b))

end Sys2Proof.Machine
end

