-- ==== Sys2Proof/Machine/Dispatch.lean ====
section
/-! DEFINITION. One arm per operation (30_encoding.md R99). -/

namespace Sys2Proof.Machine

def exec (i : Instr) (s : State) : Host.Outcome State Fault Refusal :=
  match i with
  | .csReset => Sys2Proof.Machine.execCsReset s
  | .csAdd d => Sys2Proof.Machine.execCsAdd d s
  | .csFinalize => Sys2Proof.Machine.execCsFinalize s
  | .csVerify a d => Sys2Proof.Machine.execCsVerify a d s
  | .escNeeds d => Sys2Proof.Machine.execEscNeeds d s
  | .escOut d => Sys2Proof.Machine.execEscOut d s
  | .escIn d => Sys2Proof.Machine.execEscIn d s
  | .encStart a => Sys2Proof.Machine.execEncStart a s
  | .encStep => Sys2Proof.Machine.execEncStep s
  | .decStart => Sys2Proof.Machine.execDecStart s
  | .decByte d => Sys2Proof.Machine.execDecByte d s
  | .decTimeout => Sys2Proof.Machine.execDecTimeout s
  | .txbWr a d => Sys2Proof.Machine.execTxbWr a d s
  | .txbRd a => Sys2Proof.Machine.execTxbRd a s
  | .rxbRd a => Sys2Proof.Machine.execRxbRd a s
  | .csrRd a => Sys2Proof.Machine.execCsrRd a s
  | .csrWr a d => Sys2Proof.Machine.execCsrWr a d s

end Sys2Proof.Machine
end

