-- ==== Sys2Proof/Machine/Port.lean ====
section
/-! DEFINITION. What happens to one event of the port: a command word is decoded and performed, a word that spells no
operation is answered `ERR_ILLEGAL`, reset resets (30_encoding.md R100, R102; 70_reset_and_hazards.md R300). -/

namespace Sys2Proof.Machine

/-- One command word: every 32-bit value gets exactly one response (30_encoding.md R102). A word that does not decode is
refused with `ERR_ILLEGAL` and changes nothing (R100; log 11). -/
def deliverCommand (w : Word) (s : State) : Outcome :=
  match decode w with
  | .ok i => exec i s
  | .error _ => .next (s.refuse .errIllegal)

/-- One event of the port. -/
def deliver (e : PortEvent) (s : State) : Outcome :=
  match e with
  | .command w => deliverCommand w s
  | .reset => .next s.applyReset

/-- The machine with the low `nbits` bits of `w` as the very next command word; the command is one 32-bit word, so no
byte order applies (30_encoding.md R95, 20_memory.md R62). -/
def State.offerWord (s : State) (nbits w : Nat) : State := s.offerFirst (BitVec.ofNat 32 (w % 2 ^ nbits))

end Sys2Proof.Machine
end

