-- ==== Sys2Proof/Machine/Step.lean ====
section
/-! DEFINITION. One step: the oldest pending event of the port is delivered, atomically; with nothing pending the block
holds all its state (00_scope.md R10, 60_exceptions.md R283; log 1, log 2). -/

namespace Sys2Proof.Machine

/-- One step of the machine. -/
def step (s : State) : Host.Outcome State Fault Refusal :=
  match s.takeEvent with
  | none => .next s
  | some (e, s') => deliver e s'

/-- `s` with the command word `w` placed on the port as the very next event, which stands for a program's load
(log 3). -/
def State.withFetchWord (s : State) (nbits w : Nat) : State := s.offerWord nbits w

end Sys2Proof.Machine
end

