-- ==== Sys2Proof/Machine/Frame.lean ====
section
/-! DEFINITION. The whole-frame functions the operations compute: the wire frame (30_encoding.md R90 to R94), the sum and
the checksum of a payload (40_checksum.md R138), and the decode of a whole stream (43_decoder.md R216). No meaning calls
them: claims compare the machine with them. -/

namespace Sys2Proof.Machine

/-- `sum(P)`, an unbounded integer (40_checksum.md R138). -/
def payloadSum : List Byte → Nat
  | [] => 0
  | b :: p => b.toNat + payloadSum p

/-- `sum8(P) = sum(P) mod 256` (40_checksum.md R138). -/
def sum8 (p : List Byte) : Byte := BitVec.ofNat 8 (payloadSum p % 256)

/-- `cks(P) = (0xFF - sum(P)) & 0xFF = 0xFF - sum8(P)` (30_encoding.md R93, 40_checksum.md R138). -/
def cks (p : List Byte) : Byte := BitVec.ofNat 8 (0xFF - payloadSum p % 256)

/-- Membership in `RESERVED = {0x7E, 0x7D, 0x11, 0x13}`, said as the list (00_scope.md R6). -/
def reserved (b : Byte) : Bool := b == 0x7E || b == 0x7D || b == 0x11 || b == 0x13

/-- `lenbytes(n, o)` (30_encoding.md R91): low byte first, or high byte first where `o`. The spec's `n` is at most 65535;
above it the two bytes are those of `n` modulo 65536 (DESIGN CHOICE, log 14). -/
def lenBytes (n : Nat) (o : Bool) : List Byte :=
  if o then [BitVec.ofNat 8 (n / 256), BitVec.ofNat 8 n] else [BitVec.ofNat 8 n, BitVec.ofNat 8 (n / 256)]

/-- `stuff1(b)` (30_encoding.md R92). -/
def stuff1 (b : Byte) : List Byte := if reserved b then [0x7D, b ^^^ 0x20] else [b]

/-- `stuff(P)` (30_encoding.md R92). -/
def stuff : List Byte → List Byte
  | [] => []
  | b :: p => stuff1 b ++ stuff p

/-- `encode(P, o)`, the frame on the wire; the checksum byte is raw (30_encoding.md R94). DESIGN CHOICE (log 14): R94 does
not define it for a payload of more than 65535 bytes; this function is total and gives such a payload a length field
reduced modulo 65536. No statement about the machine rests on that value. -/
def encodeFrame (p : List Byte) (o : Bool) : List Byte := [0x7E] ++ lenBytes p.length o ++ stuff p ++ [cks p]

/-- `4 + n + r`: the length of the frame, `r` the number of reserved payload bytes (30_encoding.md R94). -/
def frameLength (p : List Byte) : Nat := 4 + p.length + p.countP reserved

/-- How a decode ends (43_decoder.md R200, R216). -/
inductive DecodeOutcome where
  /-- `Success(Q)`. -/
  | success (payload : List Byte)
  /-- `ChecksumError` with its two fields. -/
  | checksumError (expected received : Byte)
  /-- `FramingError`. -/
  | framingError
  /-- `TimeoutError`, in the state the decoder waited in. -/
  | timeoutError (waiting : DecState)
  deriving DecidableEq, Repr

/-- The payload loop of 43_decoder.md R216: `n` logical bytes taken off the stream, and what is left of it; `none` with
the waiting state where the stream ends first. -/
def takePayload : Nat → List Byte → Except DecState (List Byte × List Byte)
  | 0, w => .ok ([], w)
  | _ + 1, [] => .error .data
  | n + 1, b :: w =>
    if b = 0x7D then
      match w with
      | [] => .error .esc
      | e :: w' => (takePayload n w').map (fun r => ((e ^^^ 0x20) :: r.1, r.2))
    else (takePayload n w).map (fun r => (b :: r.1, r.2))

/-- The length of a frame from its two bytes (30_encoding.md R91, 43_decoder.md R216). -/
def lengthOf (o : Bool) (first second : Byte) : Nat :=
  if o then 256 * first.toNat + second.toNat else first.toNat + 256 * second.toNat

/-- ReadChecksum and Validate of a stream whose payload has been taken. -/
def validate (q rest : List Byte) : DecodeOutcome × List Byte :=
  match rest with
  | [] => (.timeoutError .csum, [])
  | c :: left =>
    if (payloadSum q + c.toNat) % 256 = 0xFF then (.success q, left) else (.checksumError (cks q) c, left)

/-- `decode(W, o)` (43_decoder.md R216): the outcome, and the bytes left on the stream. -/
def decodeStream (w : List Byte) (o : Bool) : DecodeOutcome × List Byte :=
  match w with
  | [] => (.timeoutError .delim, [])
  | b :: w1 =>
    if b ≠ 0x7E then (.framingError, w1)
    else match w1 with
      | [] => (.timeoutError .len0, [])
      | [_] => (.timeoutError .len1, [])
      | l0 :: l1 :: w3 =>
        match takePayload (lengthOf o l0 l1) w3 with
        | .error waiting => (.timeoutError waiting, [])
        | .ok (q, rest) => validate q rest

/-- The number of bytes `decode(W, o)` consumes (43_decoder.md R216, R222). -/
def decodeConsumed (w : List Byte) (o : Bool) : Nat := w.length - (decodeStream w o).2.length

end Sys2Proof.Machine
end

