-- ==== Sys2Proof/Machine/Pseudo.lean ====
section
/-! DEFINITION. Sequences of operations as the spec's own notation writes them: one operation issued, many issued, and
the pseudo-operations of 30_encoding.md R104. None has an encoding of its own and no meaning calls them. Last, the port
events one after another. -/

namespace Sys2Proof.Machine

/-- The machine after an operation; every operation answers a next state (00_scope.md R10). -/
def issue (i : Instr) (s : State) : State :=
  match exec i s with
  | .next t => t
  | .fault _ => s
  | .refused _ => s

/-- The response an operation gets: the one it adds to the responses (00_scope.md R9). -/
def answer (i : Instr) (s : State) : Response := ((issue i s).responses.getLast?).getD ⟨.errIllegal, 0⟩

/-- Operations issued one after another (00_scope.md R10). -/
def issueAll : List Instr → State → State
  | [], s => s
  | i :: is, s => issueAll is (issue i s)

/-- `TXB.LOAD b0 ... b(n-1)` at the addresses from `a` on; the pseudo-operation is `txbLoad 0` (30_encoding.md R104).
An address is reduced modulo 65536; no payload the spec allows reaches that (DESIGN CHOICE, log 14). -/
def txbLoad : Nat → List Byte → List Instr
  | _, [] => []
  | a, b :: p => .txbWr (BitVec.ofNat 16 a) b :: txbLoad (a + 1) p

/-- `ENC.STEP` repeated while the status is `OK`, at most `fuel` times. -/
def encSteps : Nat → State → State
  | 0, s => s
  | fuel + 1, s =>
    if (answer .encStep s).status = .ok then encSteps fuel (issue .encStep s) else issue .encStep s

/-- `ENC.RUN` (30_encoding.md R104): the longest frame is 131074 bytes (R94), so one step more always meets the
`ENC.STEP` answered `ERR_IDLE` (log 13). -/
def encRun (s : State) : State := encSteps 131075 s

/-- `ENCODE b0 ... b(n-1)` (30_encoding.md R104): the source's `encode(payload)`. A payload of more than 65535 bytes "is an
error of the writer" (93_implementation_defined.md U9); its length operand is here reduced modulo 65536 (DESIGN CHOICE,
log 14). -/
def encodePayload (p : List Byte) (s : State) : State :=
  encRun (issue (.encStart (BitVec.ofNat 16 p.length)) (issueAll (txbLoad 0 p) s))

/-- `DEC.FEED w0 ... w(k-1)` (30_encoding.md R104): it stops after the first response whose status is not `OK` or whose
data is not 0. The second component says whether the last response's data was not 0. -/
def decFeed : List Byte → State → State × Bool
  | [], s => (s, false)
  | w :: ws, s =>
    let r := answer (.decByte w) s
    if r.status = .ok ∧ r.data = 0 then decFeed ws (issue (.decByte w) s)
    else (issue (.decByte w) s, r.data != 0)

/-- `DECODE w0 ... w(k-1)` (30_encoding.md R104): the source's `decode(stream)` on a stream that holds these bytes and then
times out. -/
def decodeWire (w : List Byte) (s : State) : State :=
  let r := decFeed w (issue .decStart s)
  if r.2 then r.1 else issue .decTimeout r.1

/-- `RXB.DUMP` (30_encoding.md R104): `CSR.RD DEC_LEN` giving `n`, then `RXB.RD 0` to `RXB.RD n-1`. -/
def rxbDump (s : State) : List Instr :=
  .csrRd 0x0007 :: (List.range s.codec.decLen.toNat).map (fun a => .rxbRd (BitVec.ofNat 16 a))

/-- `CFG.LE` (30_encoding.md R104). -/
def cfgLe : Instr := .csrWr 0x0000 0

/-- `CFG.BE` (30_encoding.md R104). -/
def cfgBe : Instr := .csrWr 0x0000 1

/-! ### Port events in sequence (00_scope.md R10, R11) -/

/-- The machine after one port event; every event leads to a next state (60_exceptions.md R260). -/
def receive (e : PortEvent) (s : State) : State :=
  match deliver e s with
  | .next t => t
  | .fault _ => s
  | .refused _ => s

/-- Port events delivered one after another. -/
def receiveAll : List PortEvent → State → State
  | [], s => s
  | e :: es, s => receiveAll es (receive e s)

/-- The machine after the first `k` events of an unending arrival of events, `arrivals n` being the event number `n`. -/
def receiveFirst (arrivals : Nat → PortEvent) : Nat → State → State
  | 0, s => s
  | k + 1, s => receive (arrivals k) (receiveFirst arrivals k s)

end Sys2Proof.Machine
end

