-- ==== Sys2Proof/WellFormed.lean ====
section
/-! DEFINITION. Which instructions spell an operation (30_encoding.md R98, R100).

The operand types already bound every field and leave out every must-be-zero field, so what is left to check is
the operation-specific legality of 30_encoding.md R102 (test 3 of 60_exceptions.md R270): the tests that need no
state. An ill-formed instruction still decodes and still has its meaning, which is the answer `ERR_ILLEGAL`
(log 11). -/

namespace Sys2Proof

/-- The control register numbers `0x0000` to `0x000D` are assigned (10_state.md R33). -/
abbrev csrAssigned (a : Half) : Prop := a.toNat ≤ 0x000D

/-- `CFG` is the only writable control register (10_state.md R33, 44_buffer_and_csr.md R245). -/
abbrev csrWritable (a : Half) : Prop := a = 0x0000

/-- Bits 7 to 1 of a value written to `CFG` are 0 (10_state.md R34). -/
abbrev cfgValueLegal (d : Byte) : Prop := d.extractLsb' 1 7 = 0

/-- The instruction spells an operation: no test of 60_exceptions.md R270 numbered 1 to 3 refuses it. -/
def wellFormed : Instr → Bool
  | .csrRd a => decide (csrAssigned a)
  | .csrWr a d => decide (csrWritable a) && decide (cfgValueLegal d)
  | .csReset | .csAdd _ | .csFinalize | .csVerify _ _ | .escNeeds _ | .escOut _ | .escIn _ | .encStart _
  | .encStep | .decStart | .decByte _ | .decTimeout | .txbWr _ _ | .txbRd _ | .rxbRd _ => true

/-- `wellFormed` as a proposition. -/
abbrev WellFormed (i : Instr) : Prop := wellFormed i = true

end Sys2Proof
end

