-- ==== Sys2Proof/Safety.lean ====
section
/-! DEFINITION. The terms claims use: the two ways an operation is answered, the invariants of a run from reset, which
operation reads and writes which state, the two directions, and the transport's duty. Nothing of the machine calls
these. -/

namespace Sys2Proof.Machine

/-! ### How an operation is answered -/

/-- The machine after an operation that is performed with the block in `c` and the answer `OK:data`; no byte goes over a
wire. -/
def performed (s : State) (c : Codec) (data : Half) : State :=
  { s with codec := c, responses := s.responses ++ [⟨.ok, data⟩] }

/-- The machine after a refused command: only the response is new (60_exceptions.md R266). -/
def refused (s : State) (status : Status) : State :=
  { s with responses := s.responses ++ [⟨status, 0⟩] }

/-- The machine after an `ENC.STEP` that emits `b` and leaves the block in `c`. -/
def emitted (s : State) (c : Codec) (b : Byte) : State :=
  { s with codec := c, responses := s.responses ++ [⟨.ok, BitVec.ofNat 16 b.toNat⟩], txWire := s.txWire ++ [b] }

/-- The machine after a `DEC.BYTE d` that is taken, leaves the block in `c` and answers `OK:data`. -/
def taken (s : State) (c : Codec) (d : Byte) (data : Half) : State :=
  { s with codec := c, responses := s.responses ++ [⟨.ok, data⟩], rxWire := s.rxWire ++ [d] }

/-- The values of the fourteen control registers, by number (10_state.md R33). -/
def csrValues (c : Codec) : List Nat :=
  [if c.cfgLenbe then 1 else 0, c.cs0Sum.toNat, c.encState.code.toNat, c.encLen.toNat, c.encCnt.toNat,
   c.txcsSum.toNat, c.decState.code.toNat, c.decLen.toNat, c.decCnt.toNat, c.rxcsSum.toNat,
   c.decResult.code.toNat, c.decExpected.toNat, c.decReceived.toNat, c.decEstate.code.toNat]

/-! ### Payloads held in the buffers -/

/-- `TXBUF[0 .. n-1]`. -/
def Codec.txPayload (c : Codec) (n : Nat) : List Byte := (List.range n).map (fun i => c.readTx (BitVec.ofNat 16 i))

/-- `RXBUF[0 .. n-1]`. -/
def Codec.rxPayload (c : Codec) (n : Nat) : List Byte := (List.range n).map (fun i => c.readRx (BitVec.ofNat 16 i))

/-! ### Invariants -/

/-- The invariants of the encoder (42_encoder.md R184); (f) is said of a frame in progress. -/
structure EncoderInv (c : Codec) : Prop where
  /-- R184 (a). -/
  count_le_length : c.encCnt.toNat ≤ c.encLen.toNat
  /-- R184 (b). -/
  header : (c.encState = .delim ∨ c.encState = .len0 ∨ c.encState = .len1) → c.encCnt = 0 ∧ c.txcsSum = 0
  /-- R184 (c). -/
  data : c.encState = .data → c.encCnt.toNat < c.encLen.toNat
  /-- R184 (d). -/
  escape : c.encState = .esc →
    1 ≤ c.encCnt.toNat ∧ c.encHold = c.readTx (c.encCnt - 1) ∧ needsEscape c.encHold = true
  /-- R184 (e). -/
  checksum : c.encState = .csum → c.encCnt = c.encLen
  /-- R184 (f), while busy. -/
  sum : c.encBusy = true → c.txcsSum = sum8 (c.txPayload c.encCnt.toNat)

/-- The invariants of the decoder (43_decoder.md R221; 10_state.md R32, R39; 20_memory.md R77). -/
structure DecoderInv (c : Codec) : Prop where
  /-- R221 (a). -/
  count_le_length : c.decCnt.toNat ≤ c.decLen.toNat
  /-- R221 (b). -/
  header : (c.decState = .delim ∨ c.decState = .len0) → c.decLen = 0 ∧ c.decCnt = 0 ∧ c.rxcsSum = 0
  /-- R221 (c). -/
  half_length : c.decState = .len1 → c.decCnt = 0 ∧ c.rxcsSum = 0 ∧
    (if c.cfgLenbe then lowByte c.decLen = 0 else highByte c.decLen = 0)
  /-- R221 (d). -/
  payload : (c.decState = .data ∨ c.decState = .esc) → c.decCnt.toNat < c.decLen.toNat
  /-- R221 (e). -/
  checksum : c.decState = .csum → c.decCnt = c.decLen
  /-- R221 (f). -/
  sum : c.rxcsSum = sum8 (c.rxPayload c.decCnt.toNat)
  /-- R221 (g). -/
  armed : c.decBusy = true →
    c.decResult = .none ∧ c.decExpected = 0 ∧ c.decReceived = 0 ∧ c.decEstate = .idle
  /-- R221 (h), R39. -/
  success : c.decResult = .success →
    c.decExpected = c.decReceived ∧ c.decReceived = csFin c.rxcsSum ∧ c.decCnt = c.decLen ∧ c.decEstate = .idle
  /-- R32: no outcome, no error state. -/
  no_outcome : c.decResult = .none → c.decEstate = .idle
  /-- R32, R207. -/
  framing : c.decResult = .framing → c.decEstate = .delim ∧ c.decLen = 0 ∧ c.decExpected = 0 ∧ c.decReceived = 0
  /-- R32, R213. -/
  checksum_error : c.decResult = .checksum →
    c.decEstate = .csum ∧ c.decCnt = c.decLen ∧ c.decExpected = csFin c.rxcsSum ∧ c.decExpected ≠ c.decReceived
  /-- R32, R214. -/
  timeout : c.decResult = .timeout → c.decEstate ≠ .idle ∧ c.decExpected = 0 ∧ c.decReceived = 0
  /-- R77: every payload location the decoder has counted has been written. -/
  written : ∀ i, i < c.decCnt.toNat → (c.rxbuf.lookup i).isSome = true

/-- The invariant of a run from reset: both buffers keep their canonical form and both directions keep theirs. -/
structure Codec.Inv (c : Codec) : Prop where
  txbuf : c.txbuf.wf
  rxbuf : c.rxbuf.wf
  encoder : EncoderInv c
  decoder : DecoderInv c

/-- The block shows the outcome of a decode in its registers, and the payload of a success in `RXBUF`
(43_decoder.md R217). -/
def Codec.shows (c : Codec) : DecodeOutcome → Prop
  | .success q =>
    c.decResult = .success ∧ c.decEstate = .idle ∧ c.decExpected = cks q ∧ c.decReceived = cks q ∧
    c.decLen.toNat = q.length ∧ c.rxPayload q.length = q
  | .checksumError expected received =>
    c.decResult = .checksum ∧ c.decEstate = .csum ∧ c.decExpected = expected ∧ c.decReceived = received
  | .framingError =>
    c.decResult = .framing ∧ c.decEstate = .delim ∧ c.decExpected = 0 ∧ c.decReceived = 0
  | .timeoutError waiting =>
    c.decResult = .timeout ∧ c.decEstate = waiting ∧ c.decExpected = 0 ∧ c.decReceived = 0

/-! ### Which operation reads and writes which state (10_state.md R23) -/

/-- The columns of the table of 10_state.md R23. -/
inductive Field where
  | cfg | cs0Sum | encState | encLen | encCnt | txcsSum | encHold | txbuf | decState | decLen | decCnt | rxcsSum
  | decResult | decExpectedReceived | decEstate | rxbuf
  deriving DecidableEq, Repr

/-- Two states of the block agree on a column; on a buffer, at every address. -/
def Field.same : Field → Codec → Codec → Prop
  | .cfg, x, y => x.cfgLenbe = y.cfgLenbe
  | .cs0Sum, x, y => x.cs0Sum = y.cs0Sum
  | .encState, x, y => x.encState = y.encState
  | .encLen, x, y => x.encLen = y.encLen
  | .encCnt, x, y => x.encCnt = y.encCnt
  | .txcsSum, x, y => x.txcsSum = y.txcsSum
  | .encHold, x, y => x.encHold = y.encHold
  | .txbuf, x, y => ∀ a, x.readTx a = y.readTx a
  | .decState, x, y => x.decState = y.decState
  | .decLen, x, y => x.decLen = y.decLen
  | .decCnt, x, y => x.decCnt = y.decCnt
  | .rxcsSum, x, y => x.rxcsSum = y.rxcsSum
  | .decResult, x, y => x.decResult = y.decResult
  | .decExpectedReceived, x, y => x.decExpected = y.decExpected ∧ x.decReceived = y.decReceived
  | .decEstate, x, y => x.decEstate = y.decEstate
  | .rxbuf, x, y => ∀ a, x.readRx a = y.readRx a

/-- The column a control register shows (10_state.md R33, 44_buffer_and_csr.md R244). -/
def Csr.field : Csr → Field
  | .cfg => .cfg
  | .cs0Sum => .cs0Sum
  | .encState => .encState
  | .encLen => .encLen
  | .encCnt => .encCnt
  | .encSum => .txcsSum
  | .decState => .decState
  | .decLen => .decLen
  | .decCnt => .decCnt
  | .decSum => .rxcsSum
  | .decResult => .decResult
  | .decExpected => .decExpectedReceived
  | .decReceived => .decExpectedReceived
  | .decEstate => .decEstate

/-- The `r` marks of an operation's row (10_state.md R23); `CSR.RD` reads the one field shown (R244). -/
def reads : Instr → List Field
  | .csReset => []
  | .csAdd _ => [.cs0Sum]
  | .csFinalize => [.cs0Sum]
  | .csVerify _ _ => []
  | .escNeeds _ => []
  | .escOut _ => []
  | .escIn _ => []
  | .encStart _ => [.encState]
  | .encStep => [.cfg, .encState, .encLen, .encCnt, .txcsSum, .encHold, .txbuf]
  | .decStart => [.decState]
  | .decByte _ => [.cfg, .decState, .decLen, .decCnt, .rxcsSum]
  | .decTimeout => [.decState]
  | .txbWr _ _ => [.encState]
  | .txbRd _ => [.txbuf]
  | .rxbRd _ => [.decLen, .decResult, .rxbuf]
  | .csrRd a => ((csrOfNumber a).map Csr.field).toList
  | .csrWr _ _ => [.encState, .decState]

/-- The `w` marks of an operation's row (10_state.md R23). -/
def writes : Instr → List Field
  | .csReset => [.cs0Sum]
  | .csAdd _ => [.cs0Sum]
  | .csFinalize => []
  | .csVerify _ _ => []
  | .escNeeds _ => []
  | .escOut _ => []
  | .escIn _ => []
  | .encStart _ => [.encState, .encLen, .encCnt, .txcsSum]
  | .encStep => [.encState, .encCnt, .txcsSum, .encHold]
  | .decStart => [.decState, .decLen, .decCnt, .rxcsSum, .decResult, .decExpectedReceived, .decEstate]
  | .decByte _ => [.decState, .decLen, .decCnt, .rxcsSum, .decResult, .decExpectedReceived, .decEstate, .rxbuf]
  | .decTimeout => [.decState, .decResult, .decEstate]
  | .txbWr _ _ => [.txbuf]
  | .txbRd _ => []
  | .rxbRd _ => []
  | .csrRd _ => []
  | .csrWr _ _ => [.cfg]

/-- What the encoder owns (10_state.md R20). -/
def encoderFields : List Field := [.encState, .encLen, .encCnt, .txcsSum, .encHold, .txbuf]

/-- What the decoder owns (10_state.md R20). -/
def decoderFields : List Field :=
  [.decState, .decLen, .decCnt, .rxcsSum, .decResult, .decExpectedReceived, .decEstate, .rxbuf]

/-! ### The refusals (60_exceptions.md R263) -/

/-- The operations answered `ERR_BUSY`, and when. -/
def busyRefused (c : Codec) : Instr → Bool
  | .encStart _ => c.encBusy
  | .txbWr _ _ => c.encBusy
  | .decStart => c.decBusy
  | .csrWr _ _ => c.encBusy || c.decBusy
  | .csReset | .csAdd _ | .csFinalize | .csVerify _ _ | .escNeeds _ | .escOut _ | .escIn _ | .encStep | .decByte _
  | .decTimeout | .txbRd _ | .rxbRd _ | .csrRd _ => false

/-- The operations answered `ERR_IDLE`, and when. -/
def idleRefused (c : Codec) : Instr → Bool
  | .encStep => !c.encBusy
  | .decByte _ => !c.decBusy
  | .decTimeout => !c.decBusy
  | .csReset | .csAdd _ | .csFinalize | .csVerify _ _ | .escNeeds _ | .escOut _ | .escIn _ | .encStart _ | .decStart
  | .txbWr _ _ | .txbRd _ | .rxbRd _ | .csrRd _ | .csrWr _ _ => false

/-- The operations answered `ERR_NODATA`, and when. -/
def nodataRefused (c : Codec) : Instr → Bool
  | .rxbRd a => !c.rxValid a
  | .csReset | .csAdd _ | .csFinalize | .csVerify _ _ | .escNeeds _ | .escOut _ | .escIn _ | .encStart _ | .encStep
  | .decStart | .decByte _ | .decTimeout | .txbWr _ _ | .txbRd _ | .csrRd _ | .csrWr _ _ => false

/-! ### The two directions (60_exceptions.md R281) -/

/-- The commands of the encode direction: `ENC.*`, `TXB.*`, and `CSR.RD` of `ENC_*`. -/
def encoderSide : Instr → Bool
  | .encStart _ | .encStep | .txbWr _ _ | .txbRd _ => true
  | .csrRd a => decide (0x0002 ≤ a.toNat ∧ a.toNat ≤ 0x0005)
  | .csReset | .csAdd _ | .csFinalize | .csVerify _ _ | .escNeeds _ | .escOut _ | .escIn _ | .decStart | .decByte _
  | .decTimeout | .rxbRd _ | .csrWr _ _ => false

/-- The commands of the decode direction: `DEC.*`, `RXB.RD`, and `CSR.RD` of `DEC_*`. -/
def decoderSide : Instr → Bool
  | .decStart | .decByte _ | .decTimeout | .rxbRd _ => true
  | .csrRd a => decide (0x0006 ≤ a.toNat ∧ a.toNat ≤ 0x000D)
  | .csReset | .csAdd _ | .csFinalize | .csVerify _ _ | .escNeeds _ | .escOut _ | .escIn _ | .encStart _ | .encStep
  | .txbWr _ _ | .txbRd _ | .csrWr _ _ => false

/-- The commands of the two pure components: `CS.*` and `ESC.*`. -/
def componentSide : Instr → Bool
  | .csReset | .csAdd _ | .csFinalize | .csVerify _ _ | .escNeeds _ | .escOut _ | .escIn _ => true
  | .encStart _ | .encStep | .decStart | .decByte _ | .decTimeout | .txbWr _ _ | .txbRd _ | .rxbRd _ | .csrRd _
  | .csrWr _ _ => false

/-- The commands that write what the encoder owns. -/
def movesEncoder : Instr → Bool
  | .encStart _ | .encStep | .txbWr _ _ => true
  | .csReset | .csAdd _ | .csFinalize | .csVerify _ _ | .escNeeds _ | .escOut _ | .escIn _ | .decStart | .decByte _
  | .decTimeout | .txbRd _ | .rxbRd _ | .csrRd _ | .csrWr _ _ => false

/-- The commands that write what the decoder owns. -/
def movesDecoder : Instr → Bool
  | .decStart | .decByte _ | .decTimeout => true
  | .csReset | .csAdd _ | .csFinalize | .csVerify _ _ | .escNeeds _ | .escOut _ | .escIn _ | .encStart _ | .encStep
  | .txbWr _ _ | .txbRd _ | .rxbRd _ | .csrRd _ | .csrWr _ _ => false

/-- `CSR.WR`, the one command that reads both directions and writes what both read. -/
def isCsrWr : Instr → Bool
  | .csrWr _ _ => true
  | .csReset | .csAdd _ | .csFinalize | .csVerify _ _ | .escNeeds _ | .escOut _ | .escIn _ | .encStart _ | .encStep
  | .decStart | .decByte _ | .decTimeout | .txbWr _ _ | .txbRd _ | .rxbRd _ | .csrRd _ => false

/-! ### The transport's duty (70_reset_and_hazards.md R315) -/

/-- The operations of the receive transport: a received byte, or a read that timed out (00_scope.md R11). -/
def servesDecoder : Instr → Bool
  | .decByte _ | .decTimeout => true
  | .csReset | .csAdd _ | .csFinalize | .csVerify _ _ | .escNeeds _ | .escOut _ | .escIn _ | .encStart _ | .encStep
  | .decStart | .txbWr _ _ | .txbRd _ | .rxbRd _ | .csrRd _ | .csrWr _ _ => false

/-- The event is a `DEC.BYTE` or a `DEC.TIMEOUT`. -/
def PortEvent.service (e : PortEvent) : Bool :=
  match e with
  | .command w =>
    match decode w with
    | .ok i => servesDecoder i
    | .error _ => false
  | .reset => false

/-- The fairness premise of R315, the receive transport's duty: "whenever the decoder is armed, a `DEC.BYTE` or a
`DEC.TIMEOUT` is eventually issued". Said of an unending arrival of events from a state on. It is a premise about the
outside: no step of the block makes it true, and only claims that cite it use it (log 15). -/
def TransportFair (arrivals : Nat → PortEvent) (s : State) : Prop :=
  ∀ k, (receiveFirst arrivals k s).codec.decBusy = true → ∃ m, k ≤ m ∧ (arrivals m).service = true

end Sys2Proof.Machine
end

