-- ==== Sys2Proof/Certificates/Slice0/Obligations.lean ====
section
/-! DEFINITION. The statements for the provers, family by family. -/

open Sys2Proof Sys2Proof.Machine

/-! ### Encoding -/

/-- Decoding an encoded operation gives it back, with every operand at every value (30_encoding.md R95, R96, R99). -/
def Obligations.EncodedOperationDecodesToItself : Prop :=
  ∀ i : Instr, decode (encode i) = .ok i

/-- A word that decodes is the encoding of what it decodes to: no bit of a legal word is dropped
(30_encoding.md R95, R96). -/
def Obligations.DecodedWordIsItsOwnEncoding : Prop :=
  ∀ (w : Word) (i : Instr), decode w = .ok i → encode i = w

/-- A word decodes exactly when one row of spec/opcode_table.json selects it, and then to that row's operation; a row's
mask is its format's (30_encoding.md R96). -/
def Obligations.TableRowSelectsExactlyItsOperation : Prop :=
  (∀ (w : Word) (i : Instr), decode w = .ok i →
    (opRow i).selects w = true ∧ ∀ r ∈ opcodeTable, r.selects w = true → r = opRow i) ∧
  (∀ (w : Word), ∀ r ∈ opcodeTable, r.selects w = true → ∃ i, decode w = .ok i ∧ opRow i = r) ∧
  (∀ i : Instr, (opRow i).mask = (opRow i).format.mask)

/-- The worked encodings of 30_encoding.md R107, both ways. -/
def Obligations.WorkedEncodingsDecode : Prop :=
  (decode 0x10000000 = .ok .csReset ∧ encode .csReset = 0x10000000) ∧
  (decode 0x110000AA = .ok (.csAdd 0xAA) ∧ encode (.csAdd 0xAA) = 0x110000AA) ∧
  (decode 0x30000200 = .ok (.encStart 2) ∧ encode (.encStart 2) = 0x30000200) ∧
  (decode 0x500001BB = .ok (.txbWr 0x0001 0xBB) ∧ encode (.txbWr 0x0001 0xBB) = 0x500001BB) ∧
  (decode 0x1301659A = .ok (.csVerify 0x0165 0x9A) ∧ encode (.csVerify 0x0165 0x9A) = 0x1301659A) ∧
  (decode 0x60000A00 = .ok (.csrRd Csr.decResult.number) ∧ encode (.csrRd Csr.decResult.number) = 0x60000A00) ∧
  (decode 0x4100007E = .ok (.decByte 0x7E) ∧ encode (.decByte 0x7E) = 0x4100007E) ∧
  (decode 0x61000001 = .ok (.csrWr Csr.cfg.number 1) ∧ encode (.csrWr Csr.cfg.number 1) = 0x61000001)

/-- A command word is the number `op * 2^24 + a * 2^8 + d`, with the three fields at their bits (30_encoding.md R95). -/
def Obligations.WordIsItsThreeFields : Prop :=
  ∀ w : Word,
    w.toNat = (fieldOp w).toNat * 2 ^ 24 + (fieldA w).toNat * 2 ^ 8 + (fieldD w).toNat ∧
    (fieldOp w).toNat = w.toNat / 2 ^ 24 ∧ (fieldA w).toNat = w.toNat / 2 ^ 8 % 2 ^ 16 ∧
    (fieldD w).toNat = w.toNat % 2 ^ 8

/-- Every reserved `op` code, and every assigned one with a non-zero unused field, is refused `ERR_ILLEGAL` with the
response `0x010000` and no change (30_encoding.md R100). -/
def Obligations.IllegalWordsAreRefused : Prop :=
  (∀ (w : Word) (s : State),
    ((fieldOp w).toNat ≤ 0x0F ∨ (0x14 ≤ (fieldOp w).toNat ∧ (fieldOp w).toNat ≤ 0x1F) ∨
      (0x23 ≤ (fieldOp w).toNat ∧ (fieldOp w).toNat ≤ 0x2F) ∨
      (0x32 ≤ (fieldOp w).toNat ∧ (fieldOp w).toNat ≤ 0x3F) ∨
      (0x43 ≤ (fieldOp w).toNat ∧ (fieldOp w).toNat ≤ 0x4F) ∨
      (0x53 ≤ (fieldOp w).toNat ∧ (fieldOp w).toNat ≤ 0x5F) ∨ 0x62 ≤ (fieldOp w).toNat) →
    deliverCommand w s = .next (refused s .errIllegal)) ∧
  (∀ (w : Word) (s : State), (fieldOp w).toNat ∈ [0x10, 0x12, 0x31, 0x40, 0x42] → (fieldA w ≠ 0 ∨ fieldD w ≠ 0) →
    deliverCommand w s = .next (refused s .errIllegal)) ∧
  (∀ (w : Word) (s : State), (fieldOp w).toNat ∈ [0x11, 0x20, 0x21, 0x22, 0x41] → fieldA w ≠ 0 →
    deliverCommand w s = .next (refused s .errIllegal)) ∧
  (∀ (w : Word) (s : State), (fieldOp w).toNat ∈ [0x30, 0x51, 0x52, 0x60] → fieldD w ≠ 0 →
    deliverCommand w s = .next (refused s .errIllegal)) ∧
  (Response.word ⟨.errIllegal, 0⟩ = 0x010000) ∧
  (∀ s : State, deliverCommand 0x00000000 s = .next (refused s .errIllegal) ∧
    deliverCommand 0xFFFFFFFF s = .next (refused s .errIllegal))

/-- The response word: the status code above 16 bits of data (30_encoding.md R97, R98). -/
def Obligations.ResponseWordHoldsStatusAndData : Prop :=
  (∀ (st : Status) (data : Half), (Response.word ⟨st, data⟩).toNat = st.code.toNat * 2 ^ 16 + data.toNat) ∧
  (Status.ok.code = 0x00 ∧ Status.errIllegal.code = 0x01 ∧ Status.errBusy.code = 0x02 ∧
    Status.errIdle.code = 0x03 ∧ Status.errNodata.code = 0x04)

/-! ### The machine as a whole -/

/-- A step takes the oldest event of the port: a word that decodes runs as its operation, a word that does not is answered
`ERR_ILLEGAL`, and with nothing pending the machine stays as it is (00_scope.md R10, 30_encoding.md R102,
60_exceptions.md R283). That the port is a list is the model's choice (log 1, log 2). -/
def Obligations.StepPerformsTheDecodedOperation : Prop :=
  (∀ (s : State) (w : Word) (i : Instr) (rest : List PortEvent),
    s.pending = .command w :: rest → decode w = .ok i → step s = exec i { s with pending := rest }) ∧
  (∀ (s : State) (w : Word) (e : Illegal) (rest : List PortEvent),
    s.pending = .command w :: rest → decode w = .error e →
      step s = .next (refused { s with pending := rest } .errIllegal)) ∧
  (∀ s : State, s.pending = [] → step s = .next s) ∧
  (∀ (s : State) (nbits w : Nat) (i : Instr), decodeTableWord nbits w = some i →
    step (s.withFetchWord nbits w) = exec i s)

/-- Reset gives every register its value, answers nothing and touches no buffer; after it all fourteen control registers
read 0; in the state after power-up a buffer location holds its unspecified byte, whatever that byte is
(70_reset_and_hazards.md R300). That reset is an event of the port, and leaves the pending events, the responses and the
wire histories as they are, is the model's choice (log 1, log 4). -/
def Obligations.ResetGivesEveryRegisterItsValue : Prop :=
  (∀ (s : State) (rest : List PortEvent), s.pending = .reset :: rest →
    ∃ t, step s = .next t ∧ t.pending = rest ∧ t.responses = s.responses ∧ t.txWire = s.txWire ∧
      t.rxWire = s.rxWire ∧
      t.codec.cfgLenbe = false ∧ t.codec.cs0Sum = 0 ∧ t.codec.encState = .idle ∧ t.codec.encLen = 0 ∧
      t.codec.encCnt = 0 ∧ t.codec.txcsSum = 0 ∧ t.codec.encHold = 0 ∧ t.codec.decState = .idle ∧
      t.codec.decLen = 0 ∧ t.codec.decCnt = 0 ∧ t.codec.rxcsSum = 0 ∧ t.codec.decResult = .none ∧
      t.codec.decExpected = 0 ∧ t.codec.decReceived = 0 ∧ t.codec.decEstate = .idle ∧
      (∀ a, t.codec.readTx a = s.codec.readTx a) ∧ (∀ a, t.codec.readRx a = s.codec.readRx a) ∧
      (∀ a : Half, a.toNat ≤ 0x000D → exec (.csrRd a) t = .next (performed t t.codec 0))) ∧
  (State.reset.codec.applyReset = State.reset.codec) ∧
  (∀ a, State.reset.codec.readTx a = Config.txbufInit a ∧ State.reset.codec.readRx a = Config.rxbufInit a)

/-- What the block answers immediately after reset (70_reset_and_hazards.md R302). -/
def Obligations.AnswersRightAfterReset : Prop :=
  answer .csFinalize State.reset = ⟨.ok, 0x00FF⟩ ∧
  answer .encStep State.reset = ⟨.errIdle, 0⟩ ∧
  (∀ d, answer (.decByte d) State.reset = ⟨.errIdle, 0⟩) ∧
  answer .decTimeout State.reset = ⟨.errIdle, 0⟩ ∧
  (∀ a, answer (.rxbRd a) State.reset = ⟨.errNodata, 0⟩) ∧
  (issueAll [.encStart 0, .encStep, .encStep, .encStep, .encStep] State.reset).txWire = [0x7E, 0x00, 0x00, 0xFF]

/-- The machine never stops: every operation, every command word and every step gives a next state, and a command exactly
one response (00_scope.md R10, 30_encoding.md R102, 60_exceptions.md R260). -/
def Obligations.EveryCommandGetsExactlyOneResponse : Prop :=
  (∀ (i : Instr) (s : State), ∃ t r, exec i s = .next t ∧ t.responses = s.responses ++ [r] ∧ t.pending = s.pending) ∧
  (∀ (w : Word) (s : State),
    ∃ t r, deliverCommand w s = .next t ∧ t.responses = s.responses ++ [r] ∧ t.pending = s.pending) ∧
  (∀ s : State, ∃ t, step s = .next t)

/-- A command answered with a status other than `OK` changes nothing, gets data 0 and consumes no wire byte
(60_exceptions.md R266, 00_scope.md R9). -/
def Obligations.RefusalChangesNothing : Prop :=
  (∀ (i : Instr) (s t : State), exec i s = .next t →
    ∃ r, t.responses = s.responses ++ [r] ∧ (r.status ≠ .ok → t = refused s r.status)) ∧
  (∀ (w : Word) (s t : State), deliverCommand w s = .next t →
    ∃ r, t.responses = s.responses ++ [r] ∧ (r.status ≠ .ok → t = refused s r.status))

/-- Which status every operation gets, the refusals in their order: legality, busy or idle, no data
(60_exceptions.md R263, R270). -/
def Obligations.StatusOfEveryOperation : Prop :=
  ∀ (i : Instr) (s : State),
    (answer i s).status =
      if wellFormed i = false then .errIllegal
      else if busyRefused s.codec i then .errBusy
      else if idleRefused s.codec i then .errIdle
      else if nodataRefused s.codec i then .errNodata
      else .ok

/-- The frame of every operation: a field its row of 10_state.md R23 does not mark as written keeps its value, a buffer
at every address. -/
def Obligations.OperationsWriteOnlyTheirFields : Prop :=
  ∀ (i : Instr) (s t : State) (f : Field), exec i s = .next t → f ∉ writes i → f.same s.codec t.codec

/-- An operation's response depends on the fields its row of 10_state.md R23 marks as read, and on nothing else. -/
def Obligations.ResponseDependsOnlyOnFieldsRead : Prop :=
  ∀ (i : Instr) (s t : State), (∀ f ∈ reads i, f.same s.codec t.codec) → answer i s = answer i t

/-- A command of the encode direction and one of the decode direction, and a component command and either, can be issued in
either order: the same final state and the same two responses (60_exceptions.md R281). -/
def Obligations.DirectionsCommute : Prop :=
  ∀ (i j : Instr) (s : State),
    ((encoderSide i = true ∧ decoderSide j = true) ∨
      (componentSide i = true ∧ (encoderSide j = true ∨ decoderSide j = true))) →
    (issue j (issue i s)).codec = (issue i (issue j s)).codec ∧
    (issue j (issue i s)).txWire = (issue i (issue j s)).txWire ∧
    (issue j (issue i s)).rxWire = (issue i (issue j s)).rxWire ∧
    answer i s = answer i (issue j s) ∧ answer j s = answer j (issue i s)

/-- An interleaving of both directions is, for each direction, its own commands alone: what the encoder owns and the
transmit wire depend only on the encode commands, what the decoder owns and the receive wire only on the decode commands.
`CSR.WR`, which both directions see, is left out of the list (60_exceptions.md R281, 10_state.md R20). -/
def Obligations.InterleavingIsEachDirectionAlone : Prop :=
  ∀ (is : List Instr) (s : State), (∀ i ∈ is, isCsrWr i = false) →
    (∀ f ∈ encoderFields, f.same (issueAll is s).codec (issueAll (is.filter movesEncoder) s).codec) ∧
    (issueAll is s).txWire = (issueAll (is.filter movesEncoder) s).txWire ∧
    (∀ f ∈ decoderFields, f.same (issueAll is s).codec (issueAll (is.filter movesDecoder) s).codec) ∧
    (issueAll is s).rxWire = (issueAll (is.filter movesDecoder) s).rxWire

/-- The state after reset meets the invariant (42_encoder.md R184, 43_decoder.md R221). -/
def Obligations.ResetMeetsTheInvariant : Prop := State.reset.codec.Inv

/-- Every step keeps the invariant, from every state that meets it, reset and illegal words included
(42_encoder.md R184, 43_decoder.md R221, 10_state.md R32, R39, 20_memory.md R77). -/
def Obligations.EveryStepKeepsTheInvariant : Prop :=
  ∀ s t : State, s.codec.Inv → step s = .next t → t.codec.Inv

/-- A program at the port runs as its operations, one after another, one a step (00_scope.md R10; that the port is a list
is the model's choice, log 1). -/
def Obligations.ProgramAtThePortRunsInOrder : Prop :=
  ∀ (is : List Instr) (s : State) (rest : List PortEvent),
    s.pending = is.map (fun i => PortEvent.command (encode i)) ++ rest →
    Host.Core.run Sys2Proof.core is.length s = .next (issueAll is { s with pending := rest })

/-! ### ChecksumEngine -/

/-- `CS.RESET` (40_checksum.md R134). -/
def Obligations.CsResetClearsTheSum : Prop :=
  (∀ s : State, exec .csReset s = .next (performed s { s.codec with cs0Sum := 0 } 0)) ∧
  encode .csReset = 0x10000000 ∧
  (∀ (w : Word) (s : State), fieldOp w = 0x10 → (fieldA w ≠ 0 ∨ fieldD w ≠ 0) →
    deliverCommand w s = .next (refused s .errIllegal))

/-- `CS.ADD d` (40_checksum.md R135). -/
def Obligations.CsAddAddsModulo256 : Prop :=
  (∀ (d : Byte) (s : State), exec (.csAdd d) s =
    .next (performed s { s.codec with cs0Sum := BitVec.ofNat 8 ((s.codec.cs0Sum.toNat + d.toNat) % 256) } 0)) ∧
  (∀ d : Byte, (encode (.csAdd d)).toNat = 0x11000000 + d.toNat) ∧
  (∀ (w : Word) (s : State), fieldOp w = 0x11 → fieldA w ≠ 0 →
    deliverCommand w s = .next (refused s .errIllegal))

/-- `CS.FINALIZE` (40_checksum.md R136). -/
def Obligations.CsFinalizeAnswersTheChecksum : Prop :=
  (∀ s : State, exec .csFinalize s =
    .next (performed s s.codec (BitVec.ofNat 16 ((0xFF - s.codec.cs0Sum.toNat % 256) % 256)))) ∧
  encode .csFinalize = 0x12000000 ∧
  (∀ (w : Word) (s : State), fieldOp w = 0x12 → (fieldA w ≠ 0 ∨ fieldD w ≠ 0) →
    deliverCommand w s = .next (refused s .errIllegal))

/-- `CS.VERIFY a, d` (40_checksum.md R137): it is never refused, and for every `a` exactly one `d` verifies. -/
def Obligations.CsVerifyAnswersTheVerdict : Prop :=
  (∀ (a : Half) (d : Byte) (s : State), exec (.csVerify a d) s =
    .next (performed s s.codec (if (a.toNat + d.toNat) % 256 = 0xFF then 1 else 0))) ∧
  (∀ (a : Half) (d : Byte), (encode (.csVerify a d)).toNat = 0x13000000 + a.toNat * 256 + d.toNat) ∧
  (∀ (w : Word) (s : State), fieldOp w = 0x13 → deliverCommand w s = exec (.csVerify (fieldA w) (fieldD w)) s) ∧
  (∀ (a : Half) (d : Byte), (a.toNat + d.toNat) % 256 = 0xFF ↔ d = csFin (a.setWidth 8))

/-- A reset engine that is given a payload holds its sum and finalizes to its checksum (40_checksum.md R138). -/
def Obligations.AddedPayloadFinalizesToItsChecksum : Prop :=
  ∀ (p : List Byte) (s : State),
    (issueAll (.csReset :: p.map Instr.csAdd) s).codec.cs0Sum = sum8 p ∧
    answer .csFinalize (issueAll (.csReset :: p.map Instr.csAdd) s) = ⟨.ok, BitVec.ofNat 16 (cks p).toNat⟩

/-- The checksum law, and that the order of the bytes does not matter (40_checksum.md R138). -/
def Obligations.SumAndChecksumComplete : Prop :=
  (∀ p : List Byte, (payloadSum p + (cks p).toNat) % 256 = 0xFF) ∧
  (∀ p q : List Byte, p.Perm q → cks p = cks q)

/-- Verify accepts exactly the finalized byte, and one changed payload byte never verifies (40_checksum.md R140). -/
def Obligations.VerifyAcceptsExactlyTheFinalizedByte : Prop :=
  (∀ (sum c : Byte), csVer sum.toNat c = true ↔ c = csFin sum) ∧
  (∀ (p : List Byte) (k : Nat) (y : Byte) (h : k < p.length), y ≠ p[k] →
    csVer (payloadSum (p.set k y)) (cks p) = false)

/-- The 8-bit engine and a wide one give the same bytes and verdicts, and a frame's sum fits 24 bits
(40_checksum.md R139). -/
def Obligations.WideEngineAgrees : Prop :=
  ∀ (p : List Byte) (c : Byte),
    csFin (p.foldl csAdd csZero) = BitVec.ofNat 8 (0xFF - payloadSum p % 256) ∧
    csVer (payloadSum p) c = csVer (p.foldl csAdd csZero).toNat c ∧
    (p.length ≤ Config.payloadMax → payloadSum p ≤ 16711425)

/-! ### EscapeCodec -/

/-- The membership test and its constant table (41_escape.md R150, R152). -/
def Obligations.NeedsEscapeIsTheReservedSet : Prop :=
  (∀ b : Byte, needsEscape b = true ↔ (b = 0x7E ∨ b = 0x7D ∨ b = 0x11 ∨ b = 0x13)) ∧
  Config.reservedTable.toNat = 2 ^ 17 + 2 ^ 19 + 2 ^ 125 + 2 ^ 126 ∧
  (∀ b : Byte, needsEscape b = Config.reservedTable.getLsbD b.toNat)

/-- `ESC.NEEDS d` (41_escape.md R153). -/
def Obligations.EscNeedsAnswersMembership : Prop :=
  (∀ (d : Byte) (s : State), exec (.escNeeds d) s =
    .next (performed s s.codec (if d = 0x7E ∨ d = 0x7D ∨ d = 0x11 ∨ d = 0x13 then 1 else 0))) ∧
  (∀ d : Byte, (encode (.escNeeds d)).toNat = 0x20000000 + d.toNat) ∧
  (∀ (w : Word) (s : State), fieldOp w = 0x20 → fieldA w ≠ 0 →
    deliverCommand w s = .next (refused s .errIllegal))

/-- `ESC.OUT d` and `ESC.IN d` (41_escape.md R154, R155). -/
def Obligations.EscOutAndEscInAnswerTheTransform : Prop :=
  (∀ (d : Byte) (s : State),
    exec (.escOut d) s = .next (performed s s.codec (BitVec.ofNat 16 (d ^^^ 0x20).toNat)) ∧
    exec (.escIn d) s = .next (performed s s.codec (BitVec.ofNat 16 (d ^^^ 0x20).toNat))) ∧
  (∀ d : Byte, (encode (.escOut d)).toNat = 0x21000000 + d.toNat ∧
    (encode (.escIn d)).toNat = 0x22000000 + d.toNat) ∧
  (∀ (w : Word) (s : State), (fieldOp w = 0x21 ∨ fieldOp w = 0x22) → fieldA w ≠ 0 →
    deliverCommand w s = .next (refused s .errIllegal))

/-- The laws of the transform (41_escape.md R156). -/
def Obligations.TransformLaws : Prop :=
  (∀ b : Byte, x20 (x20 b) = b) ∧
  (∀ b : Byte, x20 b ≠ b) ∧
  (∀ b : Byte, needsEscape b = true ↔ x20 b ∈ [(0x5E : Byte), 0x5D, 0x31, 0x33]) ∧
  (∀ b : Byte, needsEscape b = true → needsEscape (x20 b) = false) ∧
  (∀ b : Byte, needsEscape b = true → stuff1 b = [0x7D, x20 b] ∧ x20 (x20 b) = b)

/-! ### FrameEncoder -/

/-- `ENC.START a` (42_encoder.md R175). -/
def Obligations.EncStartBeginsAFrame : Prop :=
  (∀ (a : Half) (s : State), s.codec.encState = .idle → exec (.encStart a) s =
    .next (performed s { s.codec with encLen := a, encCnt := 0, txcsSum := 0, encState := .delim } 0)) ∧
  (∀ (a : Half) (s : State), s.codec.encState ≠ .idle → exec (.encStart a) s = .next (refused s .errBusy)) ∧
  (∀ a : Half, (encode (.encStart a)).toNat = 0x30000000 + a.toNat * 256) ∧
  (∀ (w : Word) (s : State), fieldOp w = 0x30 → fieldD w ≠ 0 →
    deliverCommand w s = .next (refused s .errIllegal))

/-- `ENC.STEP`, state by state, with everything it leaves alone (42_encoder.md R176). -/
def Obligations.EncStepEmitsTheNextWireByte : Prop :=
  (∀ s : State,
    (s.codec.encState = .idle → exec .encStep s = .next (refused s .errIdle)) ∧
    (s.codec.encState = .delim → exec .encStep s =
      .next (emitted s { s.codec with encState := .len0 } 0x7E)) ∧
    (s.codec.encState = .len0 → exec .encStep s =
      .next (emitted s { s.codec with encState := .len1 }
        (BitVec.ofNat 8 (if s.codec.cfgLenbe then s.codec.encLen.toNat / 256 else s.codec.encLen.toNat % 256)))) ∧
    (s.codec.encState = .len1 → exec .encStep s =
      .next (emitted s { s.codec with encState := if s.codec.encLen = 0 then .csum else .data }
        (BitVec.ofNat 8 (if s.codec.cfgLenbe then s.codec.encLen.toNat % 256 else s.codec.encLen.toNat / 256)))) ∧
    (s.codec.encState = .data → reserved (s.codec.readTx s.codec.encCnt) = true → exec .encStep s =
      .next (emitted s
        { s.codec with
          txcsSum := BitVec.ofNat 8 ((s.codec.txcsSum.toNat + (s.codec.readTx s.codec.encCnt).toNat) % 256)
          encCnt := BitVec.ofNat 16 (s.codec.encCnt.toNat + 1)
          encHold := s.codec.readTx s.codec.encCnt
          encState := .esc } 0x7D)) ∧
    (s.codec.encState = .data → reserved (s.codec.readTx s.codec.encCnt) = false → exec .encStep s =
      .next (emitted s
        { s.codec with
          txcsSum := BitVec.ofNat 8 ((s.codec.txcsSum.toNat + (s.codec.readTx s.codec.encCnt).toNat) % 256)
          encCnt := BitVec.ofNat 16 (s.codec.encCnt.toNat + 1)
          encState := if s.codec.encCnt.toNat + 1 = s.codec.encLen.toNat then .csum else .data }
        (s.codec.readTx s.codec.encCnt))) ∧
    (s.codec.encState = .esc → exec .encStep s =
      .next (emitted s { s.codec with encState := if s.codec.encCnt = s.codec.encLen then .csum else .data }
        (s.codec.encHold ^^^ 0x20))) ∧
    (s.codec.encState = .csum → exec .encStep s =
      .next (emitted s { s.codec with encState := .idle } (BitVec.ofNat 8 (0xFF - s.codec.txcsSum.toNat))))) ∧
  encode .encStep = 0x31000000 ∧
  (∀ (w : Word) (s : State), fieldOp w = 0x31 → (fieldA w ≠ 0 ∨ fieldD w ≠ 0) →
    deliverCommand w s = .next (refused s .errIllegal))

/-- The encoder refines the source's whole-frame `encode`, whatever other commands stand between the steps: the bytes of a
frame are those of the payload as it stood at `ENC.START` (42_encoder.md R180, 20_memory.md R72). -/
def Obligations.EncoderRefinesEncodeUnderInterleaving : Prop :=
  ∀ (s : State) (n : Half) (is : List Instr), s.codec.encState = .idle →
    is.count .encStep + 1 = frameLength (s.codec.txPayload n.toNat) →
    let t := issueAll (.encStart n :: (is ++ [.encStep])) s
    t.txWire = s.txWire ++ encodeFrame (s.codec.txPayload n.toNat) s.codec.cfgLenbe ∧
    t.codec.encState = .idle ∧ t.codec.encLen = n ∧ t.codec.encCnt = n ∧
    t.codec.txcsSum = sum8 (s.codec.txPayload n.toNat) ∧ (∀ a, t.codec.readTx a = s.codec.readTx a)

/-- After `ENC.START n` exactly `4 + n + r` steps are answered `OK` and the next one `ERR_IDLE` (42_encoder.md R178). -/
def Obligations.FrameTakesExactlyItsLengthInSteps : Prop :=
  ∀ (s : State) (n : Half) (k : Nat), s.codec.encState = .idle →
    (answer .encStep (issueAll (.encStart n :: List.replicate k .encStep) s)).status =
      if k < 4 + n.toNat + (s.codec.txPayload n.toNat).countP reserved then .ok else .errIdle

/-- The pseudo-operation `ENCODE` puts the frame of its payload on the transmit wire and touches nothing of the decode
direction (42_encoder.md R170, R171; 30_encoding.md R104). -/
def Obligations.EncodePutsTheFrameOnTheWire : Prop :=
  ∀ (p : List Byte) (s : State), p.length ≤ Config.payloadMax → s.codec.encState = .idle →
    (encodePayload p s).txWire = s.txWire ++ encodeFrame p s.codec.cfgLenbe ∧
    (encodePayload p s).codec.encState = .idle ∧
    (encodePayload p s).codec.cfgLenbe = s.codec.cfgLenbe ∧
    (∀ f ∈ decoderFields, f.same s.codec (encodePayload p s).codec) ∧
    (encodePayload p s).rxWire = s.rxWire

/-- The wire length of a frame, its bounds, and that no stuffed byte but the marker is reserved
(30_encoding.md R92, R94). R94 defines `encode` for at most 65535 payload bytes; that the length is also that of a longer
payload's frame is the model's choice (log 14). -/
def Obligations.FrameLengthAndStuffing : Prop :=
  (∀ (p : List Byte) (o : Bool), (encodeFrame p o).length = 4 + p.length + p.countP reserved) ∧
  (∀ (p : List Byte) (o : Bool), p.length ≤ Config.payloadMax →
    4 ≤ (encodeFrame p o).length ∧ (encodeFrame p o).length ≤ 131074) ∧
  (∀ (p : List Byte), ∀ b ∈ stuff p, b = 0x7D ∨ reserved b = false)

/-! ### FrameDecoder -/

/-- `DEC.START` (43_decoder.md R205). -/
def Obligations.DecStartArmsTheDecoder : Prop :=
  (∀ s : State, s.codec.decState = .idle → exec .decStart s =
    .next (performed s
      { s.codec with
        decLen := 0, decCnt := 0, rxcsSum := 0, decResult := .none, decExpected := 0, decReceived := 0,
        decEstate := .idle, decState := .delim } 0)) ∧
  (∀ s : State, s.codec.decState ≠ .idle → exec .decStart s = .next (refused s .errBusy)) ∧
  encode .decStart = 0x40000000 ∧
  (∀ (w : Word) (s : State), fieldOp w = 0x40 → (fieldA w ≠ 0 ∨ fieldD w ≠ 0) →
    deliverCommand w s = .next (refused s .errIllegal))

/-- `DEC.BYTE d`: not armed it is refused and the byte is not consumed; armed it consumes its byte and answers the result
register as it stands after the step (43_decoder.md R206). -/
def Obligations.DecByteTakesOneByteAndAnswersTheResult : Prop :=
  (∀ (d : Byte) (s : State), s.codec.decState = .idle → exec (.decByte d) s = .next (refused s .errIdle)) ∧
  (∀ (d : Byte) (s : State), s.codec.Inv → s.codec.decState ≠ .idle →
    ∃ t, exec (.decByte d) s = .next t ∧ t.rxWire = s.rxWire ++ [d] ∧ t.txWire = s.txWire ∧
      t.responses = s.responses ++ [⟨.ok, BitVec.ofNat 16 t.codec.decResult.code.toNat⟩] ∧
      t.codec.decResult ≠ .timeout ∧ (t.codec.decState = .idle ↔ t.codec.decResult ≠ .none)) ∧
  (∀ d : Byte, (encode (.decByte d)).toNat = 0x41000000 + d.toNat) ∧
  (∀ (w : Word) (s : State), fieldOp w = 0x41 → fieldA w ≠ 0 →
    deliverCommand w s = .next (refused s .errIllegal))

/-- `DEC.BYTE d` in `D_DELIM` (43_decoder.md R207). -/
def Obligations.DecByteJudgesTheDelimiter : Prop :=
  ∀ (d : Byte) (s : State), s.codec.decState = .delim →
    (d = 0x7E → exec (.decByte d) s = .next (taken s { s.codec with decState := .len0 } d 0)) ∧
    (d ≠ 0x7E → exec (.decByte d) s =
      .next (taken s { s.codec with decResult := .framing, decEstate := .delim, decState := .idle } d 3))

/-- `DEC.BYTE d` in `D_LEN0` and in `D_LEN1` (43_decoder.md R208, R209). -/
def Obligations.DecByteAssemblesTheLength : Prop :=
  ∀ (d : Byte) (s : State),
    (s.codec.decState = .len0 → exec (.decByte d) s =
      .next (taken s
        { s.codec with
          decLen := BitVec.ofNat 16 (if s.codec.cfgLenbe then 256 * d.toNat else d.toNat), decState := .len1 } d 0)) ∧
    (s.codec.decState = .len1 →
      ∃ n : Half,
        n.toNat = (if s.codec.cfgLenbe then 256 * (s.codec.decLen.toNat / 256) + d.toNat
          else 256 * d.toNat + s.codec.decLen.toNat % 256) ∧
        exec (.decByte d) s =
          .next (taken s { s.codec with decLen := n, decState := if n = 0 then .csum else .data } d 0))

/-- `DEC.BYTE d` in `D_DATA` and in `D_ESC`: the marker produces nothing, every other byte one logical byte, stored at the
address `DEC.cnt` of `RXBUF` and nowhere else (43_decoder.md R210, R211, R212). -/
def Obligations.DecByteAppendsTheLogicalByte : Prop :=
  ∀ (d : Byte) (s : State),
    (s.codec.decState = .data → d = 0x7D → exec (.decByte d) s =
      .next (taken s { s.codec with decState := .esc } d 0)) ∧
    (∀ v : Byte, ((s.codec.decState = .data ∧ d ≠ 0x7D ∧ v = d) ∨ (s.codec.decState = .esc ∧ v = d ^^^ 0x20)) →
      ∃ t, exec (.decByte d) s = .next t ∧
        t = taken s
          { s.codec with
            rxbuf := t.codec.rxbuf
            rxcsSum := BitVec.ofNat 8 ((s.codec.rxcsSum.toNat + v.toNat) % 256)
            decCnt := BitVec.ofNat 16 (s.codec.decCnt.toNat + 1)
            decState := if s.codec.decCnt.toNat + 1 = s.codec.decLen.toNat then .csum else .data } d 0 ∧
        t.codec.readRx s.codec.decCnt = v ∧
        (∀ a, a ≠ s.codec.decCnt → t.codec.readRx a = s.codec.readRx a))

/-- `DEC.BYTE d` in `D_CSUM` (43_decoder.md R213). -/
def Obligations.DecByteValidatesTheChecksum : Prop :=
  ∀ (d : Byte) (s : State), s.codec.decState = .csum →
    ((s.codec.rxcsSum.toNat + d.toNat) % 256 = 0xFF → exec (.decByte d) s =
      .next (taken s
        { s.codec with
          decReceived := d, decExpected := BitVec.ofNat 8 (0xFF - s.codec.rxcsSum.toNat)
          decResult := .success, decState := .idle } d 1)) ∧
    ((s.codec.rxcsSum.toNat + d.toNat) % 256 ≠ 0xFF → exec (.decByte d) s =
      .next (taken s
        { s.codec with
          decReceived := d, decExpected := BitVec.ofNat 8 (0xFF - s.codec.rxcsSum.toNat)
          decResult := .checksum, decEstate := .csum, decState := .idle } d 2))

/-- `DEC.TIMEOUT` (43_decoder.md R214). -/
def Obligations.DecTimeoutEndsTheDecode : Prop :=
  (∀ s : State, s.codec.decState ≠ .idle → exec .decTimeout s =
    .next (performed s
      { s.codec with decResult := .timeout, decEstate := s.codec.decState, decState := .idle } 4)) ∧
  (∀ s : State, s.codec.decState = .idle → exec .decTimeout s = .next (refused s .errIdle)) ∧
  encode .decTimeout = 0x42000000 ∧
  (∀ (w : Word) (s : State), fieldOp w = 0x42 → (fieldA w ≠ 0 ∨ fieldD w ≠ 0) →
    deliverCommand w s = .next (refused s .errIllegal))

/-- What happens when a decode ends in an error, whichever operation ends it: the state it arose in is saved, the partial
decode's registers and the whole encode direction are kept, and the frame is discarded (60_exceptions.md R265). -/
def Obligations.ErrorOutcomeSavesItsStateAndDiscardsTheFrame : Prop :=
  ∀ (i : Instr) (s t : State), exec i s = .next t → s.codec.decState ≠ .idle → t.codec.decState = .idle →
    t.codec.decResult ≠ .success →
    (t.codec.decResult = .checksum ∨ t.codec.decResult = .framing ∨ t.codec.decResult = .timeout) ∧
    t.codec.decEstate = s.codec.decState ∧ t.codec.decLen = s.codec.decLen ∧ t.codec.decCnt = s.codec.decCnt ∧
    t.codec.rxcsSum = s.codec.rxcsSum ∧ (∀ a, t.codec.readRx a = s.codec.readRx a) ∧
    (∀ f ∈ .cfg :: .cs0Sum :: encoderFields, f.same s.codec t.codec) ∧
    (t.codec.decResult = .checksum →
      t.codec.decExpected = csFin s.codec.rxcsSum ∧ i = .decByte t.codec.decReceived) ∧
    (∀ a, exec (.rxbRd a) t = .next (refused t .errNodata))

/-- The only ways the two sequencers move: no operation but those of the transition tables changes `ENC.state` or
`DEC.state` (42_encoder.md R177, 43_decoder.md R215). -/
def Obligations.SequencersMoveOnlyByTheirTables : Prop :=
  ∀ (i : Instr) (s t : State), exec i s = .next t →
    (t.codec.encState ≠ s.codec.encState →
      ((∃ n, i = .encStart n) ∧ s.codec.encState = .idle ∧ t.codec.encState = .delim) ∨
      (i = .encStep ∧ (s.codec.encState, t.codec.encState) ∈
        [(.delim, .len0), (.len0, .len1), (.len1, .csum), (.len1, .data), (.data, .esc), (.data, .csum),
          (.esc, .data), (.esc, .csum), (.csum, .idle)])) ∧
    (t.codec.decState ≠ s.codec.decState →
      (i = .decStart ∧ s.codec.decState = .idle ∧ t.codec.decState = .delim) ∨
      ((∃ d, i = .decByte d) ∧ (s.codec.decState, t.codec.decState) ∈
        [(.delim, .len0), (.delim, .idle), (.len0, .len1), (.len1, .csum), (.len1, .data), (.data, .esc),
          (.data, .csum), (.esc, .data), (.esc, .csum), (.csum, .idle)]) ∨
      (i = .decTimeout ∧ s.codec.decState ≠ .idle ∧ t.codec.decState = .idle))

/-- The decoder refines the source's whole-stream `decode`: the pseudo-operation `DECODE W` ends in the outcome
`decode(W, o)` gives, shows it in its registers and consumes exactly the bytes it consumes (43_decoder.md R216, R217). -/
def Obligations.DecoderRefinesDecode : Prop :=
  ∀ (w : List Byte) (s : State), s.codec.decState = .idle →
    (decodeWire w s).codec.decState = .idle ∧
    (decodeWire w s).codec.shows (decodeStream w s.codec.cfgLenbe).1 ∧
    (decodeWire w s).rxWire = s.rxWire ++ w.take (decodeConsumed w s.codec.cfgLenbe) ∧
    (∀ f ∈ .cfg :: .cs0Sum :: encoderFields, f.same s.codec (decodeWire w s).codec) ∧
    (decodeWire w s).txWire = s.txWire

/-- Round trip: the decode of an encoded payload, whatever follows it on the stream, is that payload
(43_decoder.md R218, R219). -/
def Obligations.DecodeOfEncodeIsThePayload : Prop :=
  ∀ (p rest : List Byte) (o : Bool), p.length ≤ Config.payloadMax →
    decodeStream (encodeFrame p o ++ rest) o = (.success p, rest)

/-- Round trip through the machine: what `ENCODE P` puts on the wire, `DECODE` of it brings back, readable byte by byte with
`RXB.DUMP` (43_decoder.md R218, 30_encoding.md R104). -/
def Obligations.LoopBackReturnsThePayload : Prop :=
  ∀ (p : List Byte) (s : State), p.length ≤ Config.payloadMax → s.codec.encState = .idle →
    s.codec.decState = .idle →
    let t := encodePayload p s
    let u := decodeWire (t.txWire.drop s.txWire.length) t
    u.codec.decResult = .success ∧
    (issueAll (rxbDump u) u).responses =
      u.responses ++ ⟨.ok, BitVec.ofNat 16 p.length⟩ :: p.map (fun b => ⟨.ok, BitVec.ofNat 16 b.toNat⟩)

/-- One changed wire byte that keeps the frame's shape is caught: the second byte of an escape pair, an unescaped payload
byte not changed to the marker, the checksum byte, the delimiter (43_decoder.md R224). -/
def Obligations.OneChangedWireByteIsCaught : Prop :=
  (∀ (p : List Byte) (o : Bool) (k : Nat) (z : Byte) (h : k < p.length), p.length ≤ Config.payloadMax →
    reserved p[k] = true → z ≠ p[k] ^^^ 0x20 →
    ∃ e, e ≠ cks p ∧
      decodeStream ([0x7E] ++ lenBytes p.length o ++ stuff (p.take k) ++ [0x7D, z] ++ stuff (p.drop (k + 1)) ++
        [cks p]) o = (.checksumError e (cks p), [])) ∧
  (∀ (p : List Byte) (o : Bool) (k : Nat) (z : Byte) (h : k < p.length), p.length ≤ Config.payloadMax →
    reserved p[k] = false → z ≠ p[k] → z ≠ 0x7D →
    ∃ e, e ≠ cks p ∧
      decodeStream ([0x7E] ++ lenBytes p.length o ++ stuff (p.take k) ++ [z] ++ stuff (p.drop (k + 1)) ++
        [cks p]) o = (.checksumError e (cks p), [])) ∧
  (∀ (p : List Byte) (o : Bool) (c : Byte), p.length ≤ Config.payloadMax → c ≠ cks p →
    decodeStream ([0x7E] ++ lenBytes p.length o ++ stuff p ++ [c]) o = (.checksumError (cks p) c, [])) ∧
  (∀ (b : Byte) (rest : List Byte) (o : Bool), b ≠ 0x7E → decodeStream (b :: rest) o = (.framingError, rest))

/-- How many bytes a decode consumes, by outcome (43_decoder.md R220, R222). -/
def Obligations.BytesConsumedByOutcome : Prop :=
  ∀ (w : List Byte) (o : Bool),
    match (decodeStream w o).1 with
    | .framingError => decodeConsumed w o = 1
    | .timeoutError _ => decodeConsumed w o = w.length
    | .success q =>
      4 + q.length ≤ decodeConsumed w o ∧ decodeConsumed w o ≤ 4 + 2 * q.length ∧ q.length ≤ Config.payloadMax
    | .checksumError e c => e ≠ c ∧ 4 ≤ decodeConsumed w o ∧ decodeConsumed w o ≤ w.length

/-! ### Buffers and control registers -/

/-- `TXB.WR a, d`: the byte goes to `a` and to no other address (44_buffer_and_csr.md R240). -/
def Obligations.TxbWrStoresOneByte : Prop :=
  (∀ (a : Half) (d : Byte) (s : State), s.codec.encState = .idle →
    ∃ t, exec (.txbWr a d) s = .next t ∧ t = performed s { s.codec with txbuf := t.codec.txbuf } 0 ∧
      t.codec.readTx a = d ∧ (∀ b, b ≠ a → t.codec.readTx b = s.codec.readTx b)) ∧
  (∀ (a : Half) (d : Byte) (s : State), s.codec.encState ≠ .idle →
    exec (.txbWr a d) s = .next (refused s .errBusy)) ∧
  (∀ (a : Half) (d : Byte), (encode (.txbWr a d)).toNat = 0x50000000 + a.toNat * 256 + d.toNat)

/-- `TXB.RD a` (44_buffer_and_csr.md R241). -/
def Obligations.TxbRdAnswersTheByte : Prop :=
  (∀ (a : Half) (s : State), exec (.txbRd a) s =
    .next (performed s s.codec (BitVec.ofNat 16 (s.codec.readTx a).toNat))) ∧
  (∀ a : Half, (encode (.txbRd a)).toNat = 0x51000000 + a.toNat * 256) ∧
  (∀ (w : Word) (s : State), fieldOp w = 0x51 → fieldD w ≠ 0 →
    deliverCommand w s = .next (refused s .errIllegal))

/-- A `TXBUF` location that nothing has written answers its unspecified byte, and the same one again, whatever that byte is
(20_memory.md R76; the free value of log 5). -/
def Obligations.UnwrittenLocationIsStable : Prop :=
  ∀ (a : Half) (s : State), s.codec.txbuf.lookup a.toNat = none →
    answer (.txbRd a) s = ⟨.ok, BitVec.ofNat 16 (Config.txbufInit a).toNat⟩ ∧
    answer (.txbRd a) (issue (.txbRd a) s) = answer (.txbRd a) s

/-- `RXB.RD a` (44_buffer_and_csr.md R242). -/
def Obligations.RxbRdShowsOnlyAValidPayload : Prop :=
  (∀ (a : Half) (s : State), s.codec.decResult = .success → a.toNat < s.codec.decLen.toNat → exec (.rxbRd a) s =
    .next (performed s s.codec (BitVec.ofNat 16 (s.codec.readRx a).toNat))) ∧
  (∀ (a : Half) (s : State), (s.codec.decResult ≠ .success ∨ s.codec.decLen.toNat ≤ a.toNat) →
    exec (.rxbRd a) s = .next (refused s .errNodata)) ∧
  (∀ a : Half, (encode (.rxbRd a)).toNat = 0x52000000 + a.toNat * 256) ∧
  (∀ (w : Word) (s : State), fieldOp w = 0x52 → fieldD w ≠ 0 →
    deliverCommand w s = .next (refused s .errIllegal))

/-- An `RXBUF` location is never observable unwritten: in a state that meets the invariant, what `RXB.RD` answers `OK` was
written by the decoder (20_memory.md R77). -/
def Obligations.RxbRdNeverShowsAnUnwrittenByte : Prop :=
  ∀ (a : Half) (s : State), s.codec.Inv → (answer (.rxbRd a) s).status = .ok →
    ∃ b, s.codec.rxbuf.lookup a.toNat = some b ∧ answer (.rxbRd a) s = ⟨.ok, BitVec.ofNat 16 b.toNat⟩

/-- `CSR.RD a` (44_buffer_and_csr.md R244; the table of 10_state.md R33). -/
def Obligations.CsrRdAnswersTheRegister : Prop :=
  (∀ (a : Half) (v : Nat) (s : State), (csrValues s.codec)[a.toNat]? = some v → exec (.csrRd a) s =
    .next (performed s s.codec (BitVec.ofNat 16 v))) ∧
  (∀ (a : Half) (s : State), 0x000D < a.toNat → exec (.csrRd a) s = .next (refused s .errIllegal)) ∧
  (∀ a : Half, (encode (.csrRd a)).toNat = 0x60000000 + a.toNat * 256) ∧
  (∀ (w : Word) (s : State), fieldOp w = 0x60 → fieldD w ≠ 0 →
    deliverCommand w s = .next (refused s .errIllegal))

/-- `CSR.WR a, d`, its refusals in their order (44_buffer_and_csr.md R245). -/
def Obligations.CsrWrWritesTheByteOrderWhenIdle : Prop :=
  (∀ (a : Half) (d : Byte) (s : State), a ≠ 0x0000 → exec (.csrWr a d) s = .next (refused s .errIllegal)) ∧
  (∀ (d : Byte) (s : State), 2 ≤ d.toNat → exec (.csrWr 0x0000 d) s = .next (refused s .errIllegal)) ∧
  (∀ (d : Byte) (s : State), d.toNat < 2 → (s.codec.encState ≠ .idle ∨ s.codec.decState ≠ .idle) →
    exec (.csrWr 0x0000 d) s = .next (refused s .errBusy)) ∧
  (∀ (d : Byte) (s : State), d.toNat < 2 → s.codec.encState = .idle → s.codec.decState = .idle →
    exec (.csrWr 0x0000 d) s = .next (performed s { s.codec with cfgLenbe := decide (d.toNat = 1) } 0)) ∧
  (∀ (a : Half) (d : Byte), (encode (.csrWr a d)).toNat = 0x61000000 + a.toNat * 256 + d.toNat)

/-! ### The transport's duty -/

/-- An armed decoder waits for as long as it gets no `DEC.BYTE`, no `DEC.TIMEOUT` and no reset: nothing of it changes, and
`DEC.START` and `CSR.WR` are refused `ERR_BUSY`. It ends within `4 + 2 * 65535` bytes or a timeout, so a transport that
keeps its duty (`TransportFair`) ends every decode (70_reset_and_hazards.md R315, 43_decoder.md R220). That events arrive
as a list or a sequence is the model's choice (log 1, log 15). -/
def Obligations.ArmedDecoderWaitsForAFairTransport : Prop :=
  (∀ (es : List PortEvent) (s : State), s.codec.decState ≠ .idle → (∀ e ∈ es, e.service = false ∧ e ≠ .reset) →
    (∀ f ∈ .cfg :: decoderFields, f.same s.codec (receiveAll es s).codec) ∧
    (receiveAll es s).rxWire = s.rxWire ∧
    exec .decStart (receiveAll es s) = .next (refused (receiveAll es s) .errBusy) ∧
    (∀ d : Byte, d.toNat < 2 →
      exec (.csrWr 0x0000 d) (receiveAll es s) = .next (refused (receiveAll es s) .errBusy))) ∧
  (∀ (es : List PortEvent) (s : State), s.codec.Inv → 4 + 2 * Config.payloadMax ≤ es.countP PortEvent.service →
    ∃ k, k ≤ es.length ∧ (receiveAll (es.take k) s).codec.decState = .idle) ∧
  (∀ (arrivals : Nat → PortEvent) (s : State), s.codec.Inv → TransportFair arrivals s →
    ∀ k, ∃ m, k ≤ m ∧ (receiveFirst arrivals m s).codec.decState = .idle)
end

