-- ==== Sys2Proof/Laws/Decode.lean ====
section
/-! SUPPORT. The fields of a word and of an encoded word. -/

namespace Sys2Proof

@[simp] theorem fieldOp_mkWord (op : Byte) (a : Half) (d : Byte) : fieldOp (mkWord op a d) = op := by
  apply BitVec.eq_of_getLsbD_eq
  intro i hi
  simp only [fieldOp, mkWord, BitVec.getLsbD_extractLsb', BitVec.getLsbD_append]
  have e : 24 + i - 8 - 16 = i := by omega
  simp [hi, e, show ¬ (24 + i < 8) by omega, show ¬ (24 + i - 8 < 16) by omega]

@[simp] theorem fieldA_mkWord (op : Byte) (a : Half) (d : Byte) : fieldA (mkWord op a d) = a := by
  apply BitVec.eq_of_getLsbD_eq
  intro i hi
  simp only [fieldA, mkWord, BitVec.getLsbD_extractLsb', BitVec.getLsbD_append]
  simp [hi]

@[simp] theorem fieldD_mkWord (op : Byte) (a : Half) (d : Byte) : fieldD (mkWord op a d) = d := by
  apply BitVec.eq_of_getLsbD_eq
  intro i hi
  simp only [fieldD, mkWord, BitVec.getLsbD_extractLsb', BitVec.getLsbD_append]
  simp [hi]

/-- A word is its three fields. -/
theorem mkWord_fields (w : Word) : mkWord (fieldOp w) (fieldA w) (fieldD w) = w := by
  apply BitVec.eq_of_getLsbD_eq
  intro i hi
  simp only [mkWord, fieldOp, fieldA, fieldD, BitVec.getLsbD_append, BitVec.getLsbD_extractLsb']
  by_cases h8 : i < 8
  · simp [h8]
  · by_cases h24 : i - 8 < 16
    · simp [h8, h24, Nat.add_sub_cancel' (Nat.le_of_not_lt h8)]
    · have e : 24 + (i - 8 - 16) = i := by omega
      have h32 : i - 8 - 16 < 8 := by omega
      simp [h8, h24, e, h32]

/-- The word as a number (30_encoding.md R95). -/
theorem mkWord_toNat (op : Byte) (a : Half) (d : Byte) :
    (mkWord op a d).toNat = op.toNat * 2 ^ 24 + a.toNat * 2 ^ 8 + d.toNat := by
  have ha := a.isLt
  have hd := d.isLt
  simp only [mkWord, BitVec.toNat_append]
  rw [Nat.shiftLeft_eq, Nat.shiftLeft_eq, Nat.mul_comm (op.toNat), Nat.mul_comm _ (2 ^ 8),
    ← Nat.two_pow_add_eq_or_of_lt (by omega : a.toNat < 2 ^ 16),
    ← Nat.two_pow_add_eq_or_of_lt (by omega : d.toNat < 2 ^ 8)]
  omega

end Sys2Proof
end

