-- ==== Sys2Proof/Laws/State.lean ====
section
/-! SUPPORT. What each update of the state does to each field: one lemma per field per update, so that no later proof
unfolds a record update. -/

namespace Sys2Proof.Machine

/-! ### `State.setCodec` -/

@[simp] theorem State.setCodec_codec (s : State) (c : Codec) : (s.setCodec c).codec = c := rfl
@[simp] theorem State.setCodec_pending (s : State) (c : Codec) : (s.setCodec c).pending = s.pending := rfl
@[simp] theorem State.setCodec_responses (s : State) (c : Codec) : (s.setCodec c).responses = s.responses := rfl
@[simp] theorem State.setCodec_txWire (s : State) (c : Codec) : (s.setCodec c).txWire = s.txWire := rfl
@[simp] theorem State.setCodec_rxWire (s : State) (c : Codec) : (s.setCodec c).rxWire = s.rxWire := rfl

/-! ### `State.respond` -/

@[simp] theorem State.respond_codec (s : State) (st : Status) (v : Half) : (s.respond st v).codec = s.codec := rfl
@[simp] theorem State.respond_pending (s : State) (st : Status) (v : Half) : (s.respond st v).pending = s.pending := rfl
@[simp] theorem State.respond_responses (s : State) (st : Status) (v : Half) : (s.respond st v).responses = s.responses ++ [⟨st, v⟩] := rfl
@[simp] theorem State.respond_txWire (s : State) (st : Status) (v : Half) : (s.respond st v).txWire = s.txWire := rfl
@[simp] theorem State.respond_rxWire (s : State) (st : Status) (v : Half) : (s.respond st v).rxWire = s.rxWire := rfl

/-! ### `State.refuse` -/

@[simp] theorem State.refuse_codec (s : State) (st : Status) : (s.refuse st).codec = s.codec := rfl
@[simp] theorem State.refuse_pending (s : State) (st : Status) : (s.refuse st).pending = s.pending := rfl
@[simp] theorem State.refuse_responses (s : State) (st : Status) : (s.refuse st).responses = s.responses ++ [⟨st, 0⟩] := rfl
@[simp] theorem State.refuse_txWire (s : State) (st : Status) : (s.refuse st).txWire = s.txWire := rfl
@[simp] theorem State.refuse_rxWire (s : State) (st : Status) : (s.refuse st).rxWire = s.rxWire := rfl

/-! ### `State.emit` -/

@[simp] theorem State.emit_codec (s : State) (b : Byte) : (s.emit b).codec = s.codec := rfl
@[simp] theorem State.emit_pending (s : State) (b : Byte) : (s.emit b).pending = s.pending := rfl
@[simp] theorem State.emit_responses (s : State) (b : Byte) : (s.emit b).responses = s.responses := rfl
@[simp] theorem State.emit_txWire (s : State) (b : Byte) : (s.emit b).txWire = s.txWire ++ [b] := rfl
@[simp] theorem State.emit_rxWire (s : State) (b : Byte) : (s.emit b).rxWire = s.rxWire := rfl

/-! ### `State.consume` -/

@[simp] theorem State.consume_codec (s : State) (b : Byte) : (s.consume b).codec = s.codec := rfl
@[simp] theorem State.consume_pending (s : State) (b : Byte) : (s.consume b).pending = s.pending := rfl
@[simp] theorem State.consume_responses (s : State) (b : Byte) : (s.consume b).responses = s.responses := rfl
@[simp] theorem State.consume_txWire (s : State) (b : Byte) : (s.consume b).txWire = s.txWire := rfl
@[simp] theorem State.consume_rxWire (s : State) (b : Byte) : (s.consume b).rxWire = s.rxWire ++ [b] := rfl

/-! ### `State.applyReset` -/

@[simp] theorem State.applyReset_codec (s : State) : (s.applyReset).codec = s.codec.applyReset := rfl
@[simp] theorem State.applyReset_pending (s : State) : (s.applyReset).pending = s.pending := rfl
@[simp] theorem State.applyReset_responses (s : State) : (s.applyReset).responses = s.responses := rfl
@[simp] theorem State.applyReset_txWire (s : State) : (s.applyReset).txWire = s.txWire := rfl
@[simp] theorem State.applyReset_rxWire (s : State) : (s.applyReset).rxWire = s.rxWire := rfl

/-! ### `State.offerFirst` -/

@[simp] theorem State.offerFirst_codec (s : State) (w : Word) : (s.offerFirst w).codec = s.codec := rfl
@[simp] theorem State.offerFirst_pending (s : State) (w : Word) : (s.offerFirst w).pending = .command w :: s.pending := rfl
@[simp] theorem State.offerFirst_responses (s : State) (w : Word) : (s.offerFirst w).responses = s.responses := rfl
@[simp] theorem State.offerFirst_txWire (s : State) (w : Word) : (s.offerFirst w).txWire = s.txWire := rfl
@[simp] theorem State.offerFirst_rxWire (s : State) (w : Word) : (s.offerFirst w).rxWire = s.rxWire := rfl

/-! ### `Codec.writeTx` -/

@[simp] theorem Codec.writeTx_cfgLenbe (c : Codec) (a : Half) (v : Byte) :
    (c.writeTx a v).cfgLenbe = c.cfgLenbe := rfl
@[simp] theorem Codec.writeTx_cs0Sum (c : Codec) (a : Half) (v : Byte) :
    (c.writeTx a v).cs0Sum = c.cs0Sum := rfl
@[simp] theorem Codec.writeTx_encState (c : Codec) (a : Half) (v : Byte) :
    (c.writeTx a v).encState = c.encState := rfl
@[simp] theorem Codec.writeTx_encLen (c : Codec) (a : Half) (v : Byte) :
    (c.writeTx a v).encLen = c.encLen := rfl
@[simp] theorem Codec.writeTx_encCnt (c : Codec) (a : Half) (v : Byte) :
    (c.writeTx a v).encCnt = c.encCnt := rfl
@[simp] theorem Codec.writeTx_txcsSum (c : Codec) (a : Half) (v : Byte) :
    (c.writeTx a v).txcsSum = c.txcsSum := rfl
@[simp] theorem Codec.writeTx_encHold (c : Codec) (a : Half) (v : Byte) :
    (c.writeTx a v).encHold = c.encHold := rfl
@[simp] theorem Codec.writeTx_decState (c : Codec) (a : Half) (v : Byte) :
    (c.writeTx a v).decState = c.decState := rfl
@[simp] theorem Codec.writeTx_decLen (c : Codec) (a : Half) (v : Byte) :
    (c.writeTx a v).decLen = c.decLen := rfl
@[simp] theorem Codec.writeTx_decCnt (c : Codec) (a : Half) (v : Byte) :
    (c.writeTx a v).decCnt = c.decCnt := rfl
@[simp] theorem Codec.writeTx_rxcsSum (c : Codec) (a : Half) (v : Byte) :
    (c.writeTx a v).rxcsSum = c.rxcsSum := rfl
@[simp] theorem Codec.writeTx_decResult (c : Codec) (a : Half) (v : Byte) :
    (c.writeTx a v).decResult = c.decResult := rfl
@[simp] theorem Codec.writeTx_decExpected (c : Codec) (a : Half) (v : Byte) :
    (c.writeTx a v).decExpected = c.decExpected := rfl
@[simp] theorem Codec.writeTx_decReceived (c : Codec) (a : Half) (v : Byte) :
    (c.writeTx a v).decReceived = c.decReceived := rfl
@[simp] theorem Codec.writeTx_decEstate (c : Codec) (a : Half) (v : Byte) :
    (c.writeTx a v).decEstate = c.decEstate := rfl
@[simp] theorem Codec.writeTx_txbuf (c : Codec) (a : Half) (v : Byte) :
    (c.writeTx a v).txbuf = c.txbuf.write a.toNat v := rfl
@[simp] theorem Codec.writeTx_rxbuf (c : Codec) (a : Half) (v : Byte) :
    (c.writeTx a v).rxbuf = c.rxbuf := rfl

/-! ### `Codec.writeRx` -/

@[simp] theorem Codec.writeRx_cfgLenbe (c : Codec) (a : Half) (v : Byte) :
    (c.writeRx a v).cfgLenbe = c.cfgLenbe := rfl
@[simp] theorem Codec.writeRx_cs0Sum (c : Codec) (a : Half) (v : Byte) :
    (c.writeRx a v).cs0Sum = c.cs0Sum := rfl
@[simp] theorem Codec.writeRx_encState (c : Codec) (a : Half) (v : Byte) :
    (c.writeRx a v).encState = c.encState := rfl
@[simp] theorem Codec.writeRx_encLen (c : Codec) (a : Half) (v : Byte) :
    (c.writeRx a v).encLen = c.encLen := rfl
@[simp] theorem Codec.writeRx_encCnt (c : Codec) (a : Half) (v : Byte) :
    (c.writeRx a v).encCnt = c.encCnt := rfl
@[simp] theorem Codec.writeRx_txcsSum (c : Codec) (a : Half) (v : Byte) :
    (c.writeRx a v).txcsSum = c.txcsSum := rfl
@[simp] theorem Codec.writeRx_encHold (c : Codec) (a : Half) (v : Byte) :
    (c.writeRx a v).encHold = c.encHold := rfl
@[simp] theorem Codec.writeRx_decState (c : Codec) (a : Half) (v : Byte) :
    (c.writeRx a v).decState = c.decState := rfl
@[simp] theorem Codec.writeRx_decLen (c : Codec) (a : Half) (v : Byte) :
    (c.writeRx a v).decLen = c.decLen := rfl
@[simp] theorem Codec.writeRx_decCnt (c : Codec) (a : Half) (v : Byte) :
    (c.writeRx a v).decCnt = c.decCnt := rfl
@[simp] theorem Codec.writeRx_rxcsSum (c : Codec) (a : Half) (v : Byte) :
    (c.writeRx a v).rxcsSum = c.rxcsSum := rfl
@[simp] theorem Codec.writeRx_decResult (c : Codec) (a : Half) (v : Byte) :
    (c.writeRx a v).decResult = c.decResult := rfl
@[simp] theorem Codec.writeRx_decExpected (c : Codec) (a : Half) (v : Byte) :
    (c.writeRx a v).decExpected = c.decExpected := rfl
@[simp] theorem Codec.writeRx_decReceived (c : Codec) (a : Half) (v : Byte) :
    (c.writeRx a v).decReceived = c.decReceived := rfl
@[simp] theorem Codec.writeRx_decEstate (c : Codec) (a : Half) (v : Byte) :
    (c.writeRx a v).decEstate = c.decEstate := rfl
@[simp] theorem Codec.writeRx_txbuf (c : Codec) (a : Half) (v : Byte) :
    (c.writeRx a v).txbuf = c.txbuf := rfl
@[simp] theorem Codec.writeRx_rxbuf (c : Codec) (a : Half) (v : Byte) :
    (c.writeRx a v).rxbuf = c.rxbuf.write a.toNat v := rfl

/-! ### `Codec.endInError` -/

@[simp] theorem Codec.endInError_cfgLenbe (c : Codec) (r : DecResult) :
    (c.endInError r).cfgLenbe = c.cfgLenbe := rfl
@[simp] theorem Codec.endInError_cs0Sum (c : Codec) (r : DecResult) :
    (c.endInError r).cs0Sum = c.cs0Sum := rfl
@[simp] theorem Codec.endInError_encState (c : Codec) (r : DecResult) :
    (c.endInError r).encState = c.encState := rfl
@[simp] theorem Codec.endInError_encLen (c : Codec) (r : DecResult) :
    (c.endInError r).encLen = c.encLen := rfl
@[simp] theorem Codec.endInError_encCnt (c : Codec) (r : DecResult) :
    (c.endInError r).encCnt = c.encCnt := rfl
@[simp] theorem Codec.endInError_txcsSum (c : Codec) (r : DecResult) :
    (c.endInError r).txcsSum = c.txcsSum := rfl
@[simp] theorem Codec.endInError_encHold (c : Codec) (r : DecResult) :
    (c.endInError r).encHold = c.encHold := rfl
@[simp] theorem Codec.endInError_decState (c : Codec) (r : DecResult) :
    (c.endInError r).decState = .idle := rfl
@[simp] theorem Codec.endInError_decLen (c : Codec) (r : DecResult) :
    (c.endInError r).decLen = c.decLen := rfl
@[simp] theorem Codec.endInError_decCnt (c : Codec) (r : DecResult) :
    (c.endInError r).decCnt = c.decCnt := rfl
@[simp] theorem Codec.endInError_rxcsSum (c : Codec) (r : DecResult) :
    (c.endInError r).rxcsSum = c.rxcsSum := rfl
@[simp] theorem Codec.endInError_decResult (c : Codec) (r : DecResult) :
    (c.endInError r).decResult = r := rfl
@[simp] theorem Codec.endInError_decExpected (c : Codec) (r : DecResult) :
    (c.endInError r).decExpected = c.decExpected := rfl
@[simp] theorem Codec.endInError_decReceived (c : Codec) (r : DecResult) :
    (c.endInError r).decReceived = c.decReceived := rfl
@[simp] theorem Codec.endInError_decEstate (c : Codec) (r : DecResult) :
    (c.endInError r).decEstate = c.decState := rfl
@[simp] theorem Codec.endInError_txbuf (c : Codec) (r : DecResult) :
    (c.endInError r).txbuf = c.txbuf := rfl
@[simp] theorem Codec.endInError_rxbuf (c : Codec) (r : DecResult) :
    (c.endInError r).rxbuf = c.rxbuf := rfl

/-! ### `Codec.armDecoder` -/

@[simp] theorem Codec.armDecoder_cfgLenbe (c : Codec) :
    (c.armDecoder).cfgLenbe = c.cfgLenbe := rfl
@[simp] theorem Codec.armDecoder_cs0Sum (c : Codec) :
    (c.armDecoder).cs0Sum = c.cs0Sum := rfl
@[simp] theorem Codec.armDecoder_encState (c : Codec) :
    (c.armDecoder).encState = c.encState := rfl
@[simp] theorem Codec.armDecoder_encLen (c : Codec) :
    (c.armDecoder).encLen = c.encLen := rfl
@[simp] theorem Codec.armDecoder_encCnt (c : Codec) :
    (c.armDecoder).encCnt = c.encCnt := rfl
@[simp] theorem Codec.armDecoder_txcsSum (c : Codec) :
    (c.armDecoder).txcsSum = c.txcsSum := rfl
@[simp] theorem Codec.armDecoder_encHold (c : Codec) :
    (c.armDecoder).encHold = c.encHold := rfl
@[simp] theorem Codec.armDecoder_decState (c : Codec) :
    (c.armDecoder).decState = .delim := rfl
@[simp] theorem Codec.armDecoder_decLen (c : Codec) :
    (c.armDecoder).decLen = 0 := rfl
@[simp] theorem Codec.armDecoder_decCnt (c : Codec) :
    (c.armDecoder).decCnt = 0 := rfl
@[simp] theorem Codec.armDecoder_rxcsSum (c : Codec) :
    (c.armDecoder).rxcsSum = 0 := rfl
@[simp] theorem Codec.armDecoder_decResult (c : Codec) :
    (c.armDecoder).decResult = .none := rfl
@[simp] theorem Codec.armDecoder_decExpected (c : Codec) :
    (c.armDecoder).decExpected = 0 := rfl
@[simp] theorem Codec.armDecoder_decReceived (c : Codec) :
    (c.armDecoder).decReceived = 0 := rfl
@[simp] theorem Codec.armDecoder_decEstate (c : Codec) :
    (c.armDecoder).decEstate = .idle := rfl
@[simp] theorem Codec.armDecoder_txbuf (c : Codec) :
    (c.armDecoder).txbuf = c.txbuf := rfl
@[simp] theorem Codec.armDecoder_rxbuf (c : Codec) :
    (c.armDecoder).rxbuf = c.rxbuf := rfl

/-! ### `Codec.startFrame` -/

@[simp] theorem Codec.startFrame_cfgLenbe (c : Codec) (n : Half) :
    (c.startFrame n).cfgLenbe = c.cfgLenbe := rfl
@[simp] theorem Codec.startFrame_cs0Sum (c : Codec) (n : Half) :
    (c.startFrame n).cs0Sum = c.cs0Sum := rfl
@[simp] theorem Codec.startFrame_encState (c : Codec) (n : Half) :
    (c.startFrame n).encState = .delim := rfl
@[simp] theorem Codec.startFrame_encLen (c : Codec) (n : Half) :
    (c.startFrame n).encLen = n := rfl
@[simp] theorem Codec.startFrame_encCnt (c : Codec) (n : Half) :
    (c.startFrame n).encCnt = 0 := rfl
@[simp] theorem Codec.startFrame_txcsSum (c : Codec) (n : Half) :
    (c.startFrame n).txcsSum = 0 := rfl
@[simp] theorem Codec.startFrame_encHold (c : Codec) (n : Half) :
    (c.startFrame n).encHold = c.encHold := rfl
@[simp] theorem Codec.startFrame_decState (c : Codec) (n : Half) :
    (c.startFrame n).decState = c.decState := rfl
@[simp] theorem Codec.startFrame_decLen (c : Codec) (n : Half) :
    (c.startFrame n).decLen = c.decLen := rfl
@[simp] theorem Codec.startFrame_decCnt (c : Codec) (n : Half) :
    (c.startFrame n).decCnt = c.decCnt := rfl
@[simp] theorem Codec.startFrame_rxcsSum (c : Codec) (n : Half) :
    (c.startFrame n).rxcsSum = c.rxcsSum := rfl
@[simp] theorem Codec.startFrame_decResult (c : Codec) (n : Half) :
    (c.startFrame n).decResult = c.decResult := rfl
@[simp] theorem Codec.startFrame_decExpected (c : Codec) (n : Half) :
    (c.startFrame n).decExpected = c.decExpected := rfl
@[simp] theorem Codec.startFrame_decReceived (c : Codec) (n : Half) :
    (c.startFrame n).decReceived = c.decReceived := rfl
@[simp] theorem Codec.startFrame_decEstate (c : Codec) (n : Half) :
    (c.startFrame n).decEstate = c.decEstate := rfl
@[simp] theorem Codec.startFrame_txbuf (c : Codec) (n : Half) :
    (c.startFrame n).txbuf = c.txbuf := rfl
@[simp] theorem Codec.startFrame_rxbuf (c : Codec) (n : Half) :
    (c.startFrame n).rxbuf = c.rxbuf := rfl

/-! ### `Codec.append` -/

@[simp] theorem Codec.append_cfgLenbe (c : Codec) (v : Byte) :
    (c.append v).cfgLenbe = c.cfgLenbe := rfl
@[simp] theorem Codec.append_cs0Sum (c : Codec) (v : Byte) :
    (c.append v).cs0Sum = c.cs0Sum := rfl
@[simp] theorem Codec.append_encState (c : Codec) (v : Byte) :
    (c.append v).encState = c.encState := rfl
@[simp] theorem Codec.append_encLen (c : Codec) (v : Byte) :
    (c.append v).encLen = c.encLen := rfl
@[simp] theorem Codec.append_encCnt (c : Codec) (v : Byte) :
    (c.append v).encCnt = c.encCnt := rfl
@[simp] theorem Codec.append_txcsSum (c : Codec) (v : Byte) :
    (c.append v).txcsSum = c.txcsSum := rfl
@[simp] theorem Codec.append_encHold (c : Codec) (v : Byte) :
    (c.append v).encHold = c.encHold := rfl
@[simp] theorem Codec.append_decState (c : Codec) (v : Byte) :
    (c.append v).decState = if c.decCnt.toNat + 1 = c.decLen.toNat then .csum else .data := rfl
@[simp] theorem Codec.append_decLen (c : Codec) (v : Byte) :
    (c.append v).decLen = c.decLen := rfl
@[simp] theorem Codec.append_decCnt (c : Codec) (v : Byte) :
    (c.append v).decCnt = c.decCnt + 1 := rfl
@[simp] theorem Codec.append_rxcsSum (c : Codec) (v : Byte) :
    (c.append v).rxcsSum = csAdd c.rxcsSum v := rfl
@[simp] theorem Codec.append_decResult (c : Codec) (v : Byte) :
    (c.append v).decResult = c.decResult := rfl
@[simp] theorem Codec.append_decExpected (c : Codec) (v : Byte) :
    (c.append v).decExpected = c.decExpected := rfl
@[simp] theorem Codec.append_decReceived (c : Codec) (v : Byte) :
    (c.append v).decReceived = c.decReceived := rfl
@[simp] theorem Codec.append_decEstate (c : Codec) (v : Byte) :
    (c.append v).decEstate = c.decEstate := rfl
@[simp] theorem Codec.append_txbuf (c : Codec) (v : Byte) :
    (c.append v).txbuf = c.txbuf := rfl
@[simp] theorem Codec.append_rxbuf (c : Codec) (v : Byte) :
    (c.append v).rxbuf = c.rxbuf.write c.decCnt.toNat v := rfl

/-! ### `Codec.applyReset` -/

@[simp] theorem Codec.applyReset_cfgLenbe (c : Codec) :
    (c.applyReset).cfgLenbe = false := rfl
@[simp] theorem Codec.applyReset_cs0Sum (c : Codec) :
    (c.applyReset).cs0Sum = 0 := rfl
@[simp] theorem Codec.applyReset_encState (c : Codec) :
    (c.applyReset).encState = .idle := rfl
@[simp] theorem Codec.applyReset_encLen (c : Codec) :
    (c.applyReset).encLen = 0 := rfl
@[simp] theorem Codec.applyReset_encCnt (c : Codec) :
    (c.applyReset).encCnt = 0 := rfl
@[simp] theorem Codec.applyReset_txcsSum (c : Codec) :
    (c.applyReset).txcsSum = 0 := rfl
@[simp] theorem Codec.applyReset_encHold (c : Codec) :
    (c.applyReset).encHold = 0 := rfl
@[simp] theorem Codec.applyReset_decState (c : Codec) :
    (c.applyReset).decState = .idle := rfl
@[simp] theorem Codec.applyReset_decLen (c : Codec) :
    (c.applyReset).decLen = 0 := rfl
@[simp] theorem Codec.applyReset_decCnt (c : Codec) :
    (c.applyReset).decCnt = 0 := rfl
@[simp] theorem Codec.applyReset_rxcsSum (c : Codec) :
    (c.applyReset).rxcsSum = 0 := rfl
@[simp] theorem Codec.applyReset_decResult (c : Codec) :
    (c.applyReset).decResult = .none := rfl
@[simp] theorem Codec.applyReset_decExpected (c : Codec) :
    (c.applyReset).decExpected = 0 := rfl
@[simp] theorem Codec.applyReset_decReceived (c : Codec) :
    (c.applyReset).decReceived = 0 := rfl
@[simp] theorem Codec.applyReset_decEstate (c : Codec) :
    (c.applyReset).decEstate = .idle := rfl
@[simp] theorem Codec.applyReset_txbuf (c : Codec) :
    (c.applyReset).txbuf = c.txbuf := rfl
@[simp] theorem Codec.applyReset_rxbuf (c : Codec) :
    (c.applyReset).rxbuf = c.rxbuf := rfl

/-! ### The port -/

@[simp] theorem State.takeEvent_nil (s : State) (h : s.pending = []) : s.takeEvent = none := by
  simp [State.takeEvent, h]

theorem State.takeEvent_cons (s : State) (e : PortEvent) (rest : List PortEvent) (h : s.pending = e :: rest) :
    s.takeEvent = some (e, { s with pending := rest }) := by
  simp [State.takeEvent, h]

@[simp] theorem State.takeEvent_offerFirst (s : State) (w : Word) :
    (s.offerFirst w).takeEvent = some (.command w, s) := rfl

end Sys2Proof.Machine
end

