-- ==== Sys2Proof/Laws/Memory.lean ====
section
/-! SUPPORT. The laws of the buffers: a read after a write, and the canonical form, which every operation keeps. -/

namespace Sys2Proof.Machine

theorem Memory.lookup_write_same (m : Memory) (a : Nat) (v : Byte) : (m.write a v).lookup a = some v := by
  induction m with
  | nil => simp [Memory.write, Memory.lookup]
  | cons x m ih =>
    obtain ⟨k, b⟩ := x
    simp only [Memory.write]
    split
    · simp [Memory.lookup]
    · split
      · simp [Memory.lookup]
      · rename_i h2
        simp [Memory.lookup, h2, ih]

theorem Memory.lookup_write_other (m : Memory) (a x : Nat) (v : Byte) (h : x ≠ a) :
    (m.write a v).lookup x = m.lookup x := by
  induction m with
  | nil => simp [Memory.write, Memory.lookup, h]
  | cons y m ih =>
    obtain ⟨k, b⟩ := y
    simp only [Memory.write]
    split
    · simp [Memory.lookup, h]
    · split
      · rename_i h2
        subst h2
        simp [Memory.lookup, h]
      · simp [Memory.lookup, ih]

/-- A read of a written memory, whole. -/
theorem Memory.lookup_write (m : Memory) (a x : Nat) (v : Byte) :
    (m.write a v).lookup x = if x = a then some v else m.lookup x := by
  split
  · subst_vars
    exact Memory.lookup_write_same m _ v
  · rename_i h
    exact Memory.lookup_write_other m a x v h

/-- An entry of a written memory is the new one or an old one. -/
theorem Memory.mem_write (m : Memory) (a : Nat) (v : Byte) (c : Host.Cell) (h : c ∈ m.write a v) :
    c = (a, v) ∨ c ∈ m := by
  induction m with
  | nil => simpa [Memory.write] using h
  | cons y m ih =>
    obtain ⟨k, b⟩ := y
    simp only [Memory.write] at h
    split at h
    · simpa using h
    · split at h
      · simp only [List.mem_cons] at h ⊢
        tauto
      · simp only [List.mem_cons] at h ⊢
        rcases h with h | h
        · exact Or.inr (Or.inl h)
        · rcases ih h with h | h
          · exact Or.inl h
          · exact Or.inr (Or.inr h)

theorem Memory.write_rising (m : Memory) (a : Nat) (v : Byte) (h : m.Pairwise (fun x y => x.1 < y.1)) :
    (m.write a v).Pairwise (fun x y => x.1 < y.1) := by
  induction m with
  | nil => simp [Memory.write]
  | cons y m ih =>
    obtain ⟨k, b⟩ := y
    rw [List.pairwise_cons] at h
    simp only [Memory.write]
    split
    · rename_i hak
      rw [List.pairwise_cons, List.pairwise_cons]
      refine ⟨fun c hc => ?_, h⟩
      rcases List.mem_cons.mp hc with rfl | hc
      · exact hak
      · exact Nat.lt_trans hak (h.1 c hc)
    · split
      · rename_i hak
        subst hak
        exact List.pairwise_cons.mpr h
      · rename_i h1 h2
        refine List.pairwise_cons.mpr ⟨fun c hc => ?_, ih h.2⟩
        rcases Memory.mem_write m a v c hc with rfl | hc
        · exact Nat.lt_of_le_of_ne (Nat.le_of_not_lt h1) (fun e => h2 e.symm)
        · exact h.1 c hc

/-- Every store keeps the canonical form. -/
theorem Memory.write_wf (m : Memory) (a : Half) (v : Byte) (h : m.wf) : Memory.wf (m.write a.toNat v) := by
  refine ⟨Memory.write_rising m _ v h.1, fun c hc => ?_⟩
  rcases Memory.mem_write m _ v c hc with rfl | hc
  · exact a.isLt
  · exact h.2 c hc

/-- The state after reset has buffers in canonical form. -/
theorem Codec.reset_wf : Codec.reset.txbuf.wf ∧ Codec.reset.rxbuf.wf := by decide

/-! ### The two buffers -/

theorem Codec.readTx_writeTx (c : Codec) (a b : Half) (v : Byte) :
    (c.writeTx a v).readTx b = if b = a then v else c.readTx b := by
  simp only [Codec.readTx, Codec.writeTx_txbuf, Memory.lookup_write, BitVec.toNat_inj]
  split <;> simp

theorem Codec.readRx_writeRx (c : Codec) (a b : Half) (v : Byte) :
    (c.writeRx a v).readRx b = if b = a then v else c.readRx b := by
  simp only [Codec.readRx, Codec.writeRx_rxbuf, Memory.lookup_write, BitVec.toNat_inj]
  split <;> simp

/-- A read of `TXBUF` depends on `TXBUF` alone. -/
theorem Codec.readTx_congr (c c' : Codec) (h : c.txbuf = c'.txbuf) (a : Half) : c.readTx a = c'.readTx a := by
  simp [Codec.readTx, h]

/-- A read of `RXBUF` depends on `RXBUF` alone. -/
theorem Codec.readRx_congr (c c' : Codec) (h : c.rxbuf = c'.rxbuf) (a : Half) : c.readRx a = c'.readRx a := by
  simp [Codec.readRx, h]

/-- What `append` does to a read of `RXBUF`: the byte goes to the address `DEC.cnt` and nowhere else. -/
theorem Codec.readRx_append (c : Codec) (v : Byte) (b : Half) :
    (c.append v).readRx b = if b = c.decCnt then v else c.readRx b := by
  rw [Codec.readRx_congr (c.append v) (c.writeRx c.decCnt v) rfl, Codec.readRx_writeRx]

/-- What a location unwritten since power-up reads as. -/
theorem Codec.readTx_unwritten (c : Codec) (a : Half) (h : c.txbuf.lookup a.toNat = none) :
    c.readTx a = Config.txbufInit a := by
  simp [Codec.readTx, h]

end Sys2Proof.Machine
end

