-- ==== Sys2Proof/Laws/Exec.lean ====
section
/-! SUPPORT. One lemma per shared operation: everything the encoder's and the decoder's one move can do, and the state an
operation leaves, by the unit's condition. Callers cite these and unfold no meaning. -/

namespace Sys2Proof.Machine

/-! ### What an operation leaves -/

@[simp] theorem issue_csReset (s : State) :
    issue .csReset s = (s.setCodec { s.codec with cs0Sum := 0 }).respond .ok 0 := rfl

@[simp] theorem issue_csAdd (d : Byte) (s : State) :
    issue (.csAdd d) s = (s.setCodec { s.codec with cs0Sum := s.codec.cs0Sum + d }).respond .ok 0 := rfl

@[simp] theorem issue_csFinalize (s : State) :
    issue .csFinalize s = s.respond .ok (zext (csFin s.codec.cs0Sum)) := rfl

@[simp] theorem issue_csVerify (a : Half) (d : Byte) (s : State) :
    issue (.csVerify a d) s = s.respond .ok (verdict (csVer a.toNat d)) := rfl

@[simp] theorem issue_escNeeds (d : Byte) (s : State) :
    issue (.escNeeds d) s = s.respond .ok (verdict (needsEscape d)) := rfl

@[simp] theorem issue_escOut (d : Byte) (s : State) : issue (.escOut d) s = s.respond .ok (zext (x20 d)) := rfl

@[simp] theorem issue_escIn (d : Byte) (s : State) : issue (.escIn d) s = s.respond .ok (zext (x20 d)) := rfl

@[simp] theorem issue_txbRd (a : Half) (s : State) :
    issue (.txbRd a) s = s.respond .ok (zext (s.codec.readTx a)) := rfl

theorem issue_encStart (n : Half) (s : State) :
    issue (.encStart n) s =
      if s.codec.encBusy then s.refuse .errBusy else (s.setCodec (s.codec.startFrame n)).respond .ok 0 := rfl

theorem issue_encStep (s : State) :
    issue .encStep s = match s.codec.encMove with
      | none => s.refuse .errIdle
      | some (c, b) => ((s.setCodec c).emit b).respond .ok (zext b) := rfl

theorem issue_decStart (s : State) :
    issue .decStart s =
      if s.codec.decBusy then s.refuse .errBusy else (s.setCodec s.codec.armDecoder).respond .ok 0 := rfl

theorem issue_decByte (d : Byte) (s : State) :
    issue (.decByte d) s = match s.codec.decMove d with
      | none => s.refuse .errIdle
      | some (c, r) => ((s.setCodec c).consume d).respond .ok (resultData r) := rfl

theorem issue_decTimeout (s : State) :
    issue .decTimeout s =
      if s.codec.decBusy then (s.setCodec (s.codec.endInError .timeout)).respond .ok (resultData .timeout)
      else s.refuse .errIdle := rfl

theorem issue_txbWr (a : Half) (d : Byte) (s : State) :
    issue (.txbWr a d) s =
      if s.codec.encBusy then s.refuse .errBusy else (s.setCodec (s.codec.writeTx a d)).respond .ok 0 := rfl

theorem issue_rxbRd (a : Half) (s : State) :
    issue (.rxbRd a) s =
      if s.codec.rxValid a then s.respond .ok (zext (s.codec.readRx a)) else s.refuse .errNodata := rfl

theorem issue_csrRd (a : Half) (s : State) :
    issue (.csrRd a) s = match csrOfNumber a with
      | none => s.refuse .errIllegal
      | some r => s.respond .ok (s.codec.csrView r) := rfl

theorem issue_csrWr (a : Half) (d : Byte) (s : State) :
    issue (.csrWr a d) s =
      if csrWriteIllegal a then s.refuse .errIllegal
      else if cfgValueIllegal d then s.refuse .errIllegal
      else if s.codec.encBusy || s.codec.decBusy then s.refuse .errBusy
      else (s.setCodec { s.codec with cfgLenbe := d.getLsbD 0 }).respond .ok 0 := rfl

/-! ### Busy and idle -/

@[simp] theorem Codec.encBusy_eq_false (c : Codec) : c.encBusy = false ↔ c.encState = .idle := by
  simp [Codec.encBusy]

@[simp] theorem Codec.encBusy_eq_true (c : Codec) : c.encBusy = true ↔ c.encState ≠ .idle := by
  simp [Codec.encBusy]

@[simp] theorem Codec.decBusy_eq_false (c : Codec) : c.decBusy = false ↔ c.decState = .idle := by
  simp [Codec.decBusy]

@[simp] theorem Codec.decBusy_eq_true (c : Codec) : c.decBusy = true ↔ c.decState ≠ .idle := by
  simp [Codec.decBusy]

@[simp] theorem Codec.encMove_eq_none (c : Codec) : c.encMove = none ↔ c.encState = .idle := by
  unfold Codec.encMove
  cases c.encState <;> simp

@[simp] theorem Codec.decMove_eq_none (c : Codec) (d : Byte) : c.decMove d = none ↔ c.decState = .idle := by
  unfold Codec.decMove
  cases c.decState <;> simp

/-- Everything the encoder's move leaves alone: `CFG`, `CS0.sum`, `ENC.len`, `TXBUF` and the decode direction. -/
theorem Codec.encMove_frame (c c' : Codec) (b : Byte) (h : c.encMove = some (c', b)) :
    c'.cfgLenbe = c.cfgLenbe ∧ c'.cs0Sum = c.cs0Sum ∧ c'.encLen = c.encLen ∧ c'.txbuf = c.txbuf ∧
    c'.decState = c.decState ∧ c'.decLen = c.decLen ∧ c'.decCnt = c.decCnt ∧ c'.rxcsSum = c.rxcsSum ∧
    c'.decResult = c.decResult ∧ c'.decExpected = c.decExpected ∧ c'.decReceived = c.decReceived ∧
    c'.decEstate = c.decEstate ∧ c'.rxbuf = c.rxbuf := by
  unfold Codec.encMove at h
  cases hs : c.encState <;> rw [hs] at h <;> simp only [Option.some.injEq, reduceCtorEq] at h
  case data =>
    unfold Codec.encData at h
    simp only at h
    split at h <;> (cases h; simp)
  all_goals (cases h; simp)

/-- Everything the decoder's move leaves alone: `CFG`, `CS0.sum` and the encode direction. -/
theorem Codec.decMove_frame (c c' : Codec) (d : Byte) (r : DecResult) (h : c.decMove d = some (c', r)) :
    c'.cfgLenbe = c.cfgLenbe ∧ c'.cs0Sum = c.cs0Sum ∧ c'.encState = c.encState ∧ c'.encLen = c.encLen ∧
    c'.encCnt = c.encCnt ∧ c'.txcsSum = c.txcsSum ∧ c'.encHold = c.encHold ∧ c'.txbuf = c.txbuf := by
  unfold Codec.decMove at h
  cases hs : c.decState <;> rw [hs] at h <;> simp only [Option.some.injEq, reduceCtorEq] at h
  case delim => unfold Codec.takeDelim at h; split at h <;> (cases h; simp)
  case len0 => cases h; simp
  case len1 => cases h; simp
  case data => unfold Codec.takeData at h; split at h <;> (cases h; simp)
  case esc => cases h; simp
  case csum => unfold Codec.takeCsum at h; simp only at h; split at h <;> (cases h; simp)

/-! ### The whole of each move, case by case -/

/-- Everything the encoder's move can be (42_encoder.md R177). -/
theorem Codec.encMove_cases (c c' : Codec) (b : Byte) (h : c.encMove = some (c', b)) :
    (c.encState = .delim ∧ b = 0x7E ∧ c' = { c with encState := .len0 }) ∨
    (c.encState = .len0 ∧ b = lenFirst c.cfgLenbe c.encLen ∧ c' = { c with encState := .len1 }) ∨
    (c.encState = .len1 ∧ b = lenSecond c.cfgLenbe c.encLen ∧ c' = { c with encState := c.encAfter 0 }) ∨
    (c.encState = .data ∧ needsEscape (c.readTx c.encCnt) = true ∧ b = 0x7D ∧
      c' = { c with
        txcsSum := csAdd c.txcsSum (c.readTx c.encCnt), encCnt := c.encCnt + 1, encHold := c.readTx c.encCnt,
        encState := .esc }) ∨
    (c.encState = .data ∧ needsEscape (c.readTx c.encCnt) = false ∧ b = c.readTx c.encCnt ∧
      c' = { c with
        txcsSum := csAdd c.txcsSum (c.readTx c.encCnt), encCnt := c.encCnt + 1,
        encState := c.encAfter (c.encCnt.toNat + 1) }) ∨
    (c.encState = .esc ∧ b = x20 c.encHold ∧ c' = { c with encState := c.encAfter c.encCnt.toNat }) ∨
    (c.encState = .csum ∧ b = csFin c.txcsSum ∧ c' = { c with encState := .idle }) := by
  unfold Codec.encMove at h
  cases hs : c.encState <;> rw [hs] at h <;> simp only [Option.some.injEq, reduceCtorEq] at h
  case data =>
    unfold Codec.encData at h
    simp only at h
    split at h
    · cases h; simp_all [Config.esc]
    · cases h; simp_all
  all_goals (cases h; simp [Config.delim])

/-- Everything the decoder's move can be (43_decoder.md R215). -/
theorem Codec.decMove_cases (c c' : Codec) (d : Byte) (r : DecResult) (h : c.decMove d = some (c', r)) :
    (c.decState = .delim ∧ d = 0x7E ∧ r = .none ∧ c' = { c with decState := .len0 }) ∨
    (c.decState = .delim ∧ d ≠ 0x7E ∧ r = .framing ∧ c' = c.endInError .framing) ∨
    (c.decState = .len0 ∧ r = .none ∧ c' = { c with decLen := lenAfterFirst c.cfgLenbe d, decState := .len1 }) ∨
    (c.decState = .len1 ∧ r = .none ∧
      c' = { c with
        decLen := lenAfterSecond c.cfgLenbe c.decLen d,
        decState := if lenAfterSecond c.cfgLenbe c.decLen d = 0 then .csum else .data }) ∨
    (c.decState = .data ∧ d = 0x7D ∧ r = .none ∧ c' = { c with decState := .esc }) ∨
    (c.decState = .data ∧ d ≠ 0x7D ∧ r = .none ∧ c' = c.append d) ∨
    (c.decState = .esc ∧ r = .none ∧ c' = c.append (x20 d)) ∨
    (c.decState = .csum ∧ csVer c.rxcsSum.toNat d = true ∧ r = .success ∧
      c' = { c with
        decReceived := d, decExpected := csFin c.rxcsSum, decResult := .success, decState := .idle }) ∨
    (c.decState = .csum ∧ csVer c.rxcsSum.toNat d = false ∧ r = .checksum ∧
      c' = { c with
        decReceived := d, decExpected := csFin c.rxcsSum, decResult := .checksum, decEstate := .csum,
        decState := .idle }) := by
  unfold Codec.decMove at h
  cases hs : c.decState <;> rw [hs] at h <;> simp only [Option.some.injEq, reduceCtorEq] at h
  case delim =>
    unfold Codec.takeDelim at h
    split at h <;> (cases h; simp_all [Config.delim])
  case len0 => cases h; simp
  case len1 => cases h; simp
  case data =>
    unfold Codec.takeData at h
    split at h <;> (cases h; simp_all [Config.esc])
  case esc => cases h; simp
  case csum =>
    unfold Codec.takeCsum at h
    simp only at h
    split at h <;> (cases h; simp_all [Codec.endInError])

end Sys2Proof.Machine
end

