-- ==== Sys2Proof/Laws/Frame.lean ====
section
/-! SUPPORT. The small laws of sums and of the payloads held in the buffers. -/

namespace Sys2Proof.Machine

@[simp] theorem payloadSum_append (p q : List Byte) : payloadSum (p ++ q) = payloadSum p + payloadSum q := by
  induction p with
  | nil => simp [payloadSum]
  | cons b p ih => simp [payloadSum, ih, Nat.add_assoc]

/-- The sum of a payload with one more byte is the accumulator after one more `add`. -/
theorem sum8_append_byte (p : List Byte) (b : Byte) : sum8 (p ++ [b]) = csAdd (sum8 p) b := by
  apply BitVec.eq_of_toNat_eq
  simp [sum8, csAdd, payloadSum]

@[simp] theorem Codec.length_txPayload (c : Codec) (n : Nat) : (c.txPayload n).length = n := by
  simp [Codec.txPayload]

@[simp] theorem Codec.length_rxPayload (c : Codec) (n : Nat) : (c.rxPayload n).length = n := by
  simp [Codec.rxPayload]

theorem Codec.txPayload_succ (c : Codec) (n : Nat) :
    c.txPayload (n + 1) = c.txPayload n ++ [c.readTx (BitVec.ofNat 16 n)] := by
  simp [Codec.txPayload, List.range_succ]

theorem Codec.rxPayload_succ (c : Codec) (n : Nat) :
    c.rxPayload (n + 1) = c.rxPayload n ++ [c.readRx (BitVec.ofNat 16 n)] := by
  simp [Codec.rxPayload, List.range_succ]

/-- A payload depends only on the bytes at its addresses. -/
theorem Codec.txPayload_congr (c c' : Codec) (n : Nat)
    (h : ∀ i < n, c.readTx (BitVec.ofNat 16 i) = c'.readTx (BitVec.ofNat 16 i)) : c.txPayload n = c'.txPayload n := by
  simpa [Codec.txPayload] using h

theorem Codec.rxPayload_congr (c c' : Codec) (n : Nat)
    (h : ∀ i < n, c.readRx (BitVec.ofNat 16 i) = c'.readRx (BitVec.ofNat 16 i)) : c.rxPayload n = c'.rxPayload n := by
  simpa [Codec.rxPayload] using h

/-- The decoder's append puts one byte more at the end of the payload taken so far. -/
theorem Codec.rxPayload_append (c : Codec) (v : Byte) :
    (c.append v).rxPayload (c.decCnt.toNat + 1) = c.rxPayload c.decCnt.toNat ++ [v] := by
  rw [Codec.rxPayload_succ]
  congr 1
  · refine Codec.rxPayload_congr _ _ _ fun i hi => ?_
    rw [Codec.readRx_append, if_neg]
    intro h
    have hlt := c.decCnt.isLt
    have := congrArg BitVec.toNat h
    simp only [BitVec.toNat_ofNat] at this
    omega
  · simp [Codec.readRx_append]

end Sys2Proof.Machine
end

