-- ==== Sys2Proof/Laws/PerInstr.lean ====
section
/-! SUPPORT. The family `EncodedRow`: an operation's command word matches its own row of spec/opcode_table.json
(30_encoding.md R96). -/

namespace Sys2Proof.Laws.EncodedRow

/-- The word `encode i` has the bits the row of `i` fixes. -/
def Statement (i : Instr) : Prop := (opRow i).selects (encode i) = true

/-- The bits of a word whose fields are all free below the `op` code. -/
theorem mkWord_and_opMask (op : Byte) (a : Half) (d : Byte) :
    mkWord op a d &&& 0xFF000000 = mkWord op 0 0 := by
  apply BitVec.eq_of_getLsbD_eq
  intro i hi
  simp only [mkWord, BitVec.getLsbD_and, BitVec.getLsbD_append]
  interval_cases i <;> simp

/-- The bits of a word whose `d` is zero. -/
theorem mkWord_and_aMask (op : Byte) (a : Half) :
    mkWord op a 0 &&& 0xFF0000FF = mkWord op 0 0 := by
  apply BitVec.eq_of_getLsbD_eq
  intro i hi
  simp only [mkWord, BitVec.getLsbD_and, BitVec.getLsbD_append]
  interval_cases i <;> simp

/-- The bits of a word whose `a` is zero. -/
theorem mkWord_and_dMask (op d : Byte) :
    mkWord op 0 d &&& 0xFFFFFF00 = mkWord op 0 0 := by
  apply BitVec.eq_of_getLsbD_eq
  intro i hi
  simp only [mkWord, BitVec.getLsbD_and, BitVec.getLsbD_append]
  interval_cases i <;> simp

theorem csReset : Statement .csReset := by unfold Statement; decide

theorem csAdd (d : Byte) : Statement (.csAdd d) := by
  simp only [Statement, OpRow.selects, opRow, encode, mkWord_and_dMask]; decide

theorem csFinalize : Statement .csFinalize := by unfold Statement; decide

theorem csVerify (a : Half) (d : Byte) : Statement (.csVerify a d) := by
  simp only [Statement, OpRow.selects, opRow, encode, mkWord_and_opMask]; decide

theorem escNeeds (d : Byte) : Statement (.escNeeds d) := by
  simp only [Statement, OpRow.selects, opRow, encode, mkWord_and_dMask]; decide

theorem escOut (d : Byte) : Statement (.escOut d) := by
  simp only [Statement, OpRow.selects, opRow, encode, mkWord_and_dMask]; decide

theorem escIn (d : Byte) : Statement (.escIn d) := by
  simp only [Statement, OpRow.selects, opRow, encode, mkWord_and_dMask]; decide

theorem encStart (a : Half) : Statement (.encStart a) := by
  simp only [Statement, OpRow.selects, opRow, encode, mkWord_and_aMask]; decide

theorem encStep : Statement .encStep := by unfold Statement; decide

theorem decStart : Statement .decStart := by unfold Statement; decide

theorem decByte (d : Byte) : Statement (.decByte d) := by
  simp only [Statement, OpRow.selects, opRow, encode, mkWord_and_dMask]; decide

theorem decTimeout : Statement .decTimeout := by unfold Statement; decide

theorem txbWr (a : Half) (d : Byte) : Statement (.txbWr a d) := by
  simp only [Statement, OpRow.selects, opRow, encode, mkWord_and_opMask]; decide

theorem txbRd (a : Half) : Statement (.txbRd a) := by
  simp only [Statement, OpRow.selects, opRow, encode, mkWord_and_aMask]; decide

theorem rxbRd (a : Half) : Statement (.rxbRd a) := by
  simp only [Statement, OpRow.selects, opRow, encode, mkWord_and_aMask]; decide

theorem csrRd (a : Half) : Statement (.csrRd a) := by
  simp only [Statement, OpRow.selects, opRow, encode, mkWord_and_aMask]; decide

theorem csrWr (a : Half) (d : Byte) : Statement (.csrWr a d) := by
  simp only [Statement, OpRow.selects, opRow, encode, mkWord_and_opMask]; decide

end Sys2Proof.Laws.EncodedRow
end

