-- ==== Sys2Proof/Laws/Port.lean ====
section
/-! SUPPORT. The laws of the port: what one event does, and that a step is the oldest pending event. -/

namespace Sys2Proof.Machine

theorem exec_eq_issue (i : Instr) (s : State) : exec i s = .next (issue i s) := by cases i <;> rfl

/-- A command word that decodes is its operation issued. -/
theorem receive_command_of_decodes (w : Word) (i : Instr) (s : State) (h : decode w = .ok i) :
    receive (.command w) s = issue i s := by
  simp only [receive, deliver, deliverCommand, h, exec_eq_issue]

/-- A command word that spells no operation is refused. -/
theorem receive_command_of_illegal (w : Word) (e : Illegal) (s : State) (h : decode w = .error e) :
    receive (.command w) s = s.refuse .errIllegal := by
  simp only [receive, deliver, deliverCommand, h]

@[simp] theorem receive_reset (s : State) : receive .reset s = s.applyReset := rfl

theorem deliver_eq_receive (e : PortEvent) (s : State) : deliver e s = .next (receive e s) := by
  cases e with
  | reset => rfl
  | command w =>
    cases h : decode w with
    | ok i => rw [receive_command_of_decodes w i s h]; simp only [deliver, deliverCommand, h, exec_eq_issue]
    | error e => rw [receive_command_of_illegal w e s h]; simp only [deliver, deliverCommand, h]

/-- A step with an event pending is that event received. -/
theorem step_eq_receive (s : State) (e : PortEvent) (rest : List PortEvent) (h : s.pending = e :: rest) :
    step s = .next (receive e { s with pending := rest }) := by
  simp only [step, State.takeEvent, h, deliver_eq_receive]

/-- An operation that serves the decoder is a `DEC.BYTE` or `DEC.TIMEOUT`. -/
theorem servesDecoder_iff (i : Instr) : servesDecoder i = true ↔ (∃ d, i = .decByte d) ∨ i = .decTimeout := by
  cases i <;> simp [servesDecoder]

end Sys2Proof.Machine
end

