-- ==== Sys2Proof/Tests/Slice0.lean ====
section
/-! SUPPORT. The model's own tests: well-formedness, decoding of words written out from the spec's encoding, one step of
each operation with results from 95_test_vectors.md, and a witness for every statement that has hypotheses. -/

namespace Sys2Proof.Tests

open Sys2Proof Sys2Proof.Machine

/-- The machine with the block in a given state. -/
def onBlock (c : Codec) : State := { State.reset with codec := c }

/-- The block, loaded with the payload `7E` and in the middle of its frame, `ENC.STEP` about to send the second byte of the
escape pair (95_test_vectors.md 1.2). -/
def sending : Codec :=
  { Codec.reset with encState := .esc, encLen := 1, encCnt := 1, txcsSum := 0x7E, encHold := 0x7E, txbuf := [(0, 0x7E)] }

/-- The block, armed and waiting for the checksum of `7E 02 00 AA BB` (95_test_vectors.md 2.4). -/
def receiving : Codec :=
  { Codec.reset with decState := .csum, decLen := 2, decCnt := 2, rxcsSum := 0x65, rxbuf := [(0, 0xAA), (1, 0xBB)] }

/-- The block after `7E 02 00 AA BB 9A` (95_test_vectors.md 2.4). -/
def received : Codec :=
  { receiving with decState := .idle, decResult := .success, decExpected := 0x9A, decReceived := 0x9A }

/-! ### Well-formedness: each test refuses an ill-formed term (60_exceptions.md R270, test 3) -/

theorem test_csrRd_above_the_last_register_is_ill_formed : wellFormed (.csrRd 0x000E) = false := by decide
theorem test_csrRd_of_the_last_register_is_well_formed : wellFormed (.csrRd 0x000D) = true := by decide
theorem test_csrWr_to_a_read_only_register_is_ill_formed : wellFormed (.csrWr 0x0001 0) = false := by decide
theorem test_csrWr_to_no_register_is_ill_formed : wellFormed (.csrWr 0x000E 0) = false := by decide
theorem test_csrWr_of_a_reserved_bit_is_ill_formed : wellFormed (.csrWr 0x0000 2) = false := by decide
theorem test_csrWr_of_the_top_bit_is_ill_formed : wellFormed (.csrWr 0x0000 0x81) = false := by decide
theorem test_csrWr_of_the_byte_order_is_well_formed : wellFormed (.csrWr 0x0000 1) = true := by decide

/-! ### Decoding: one word of every operation, written out as `op a d` (30_encoding.md R95, R99) -/

theorem test_decode_csReset : decode 0b00010000_0000000000000000_00000000 = .ok .csReset := by decide
theorem test_decode_csAdd : decode 0b00010001_0000000000000000_10101010 = .ok (.csAdd 0xAA) := by decide
theorem test_decode_csFinalize : decode 0b00010010_0000000000000000_00000000 = .ok .csFinalize := by decide
theorem test_decode_csVerify :
    decode 0b00010011_0000000101100101_10011010 = .ok (.csVerify 0x0165 0x9A) := by decide
theorem test_decode_escNeeds : decode 0b00100000_0000000000000000_01111110 = .ok (.escNeeds 0x7E) := by decide
theorem test_decode_escOut : decode 0b00100001_0000000000000000_00010001 = .ok (.escOut 0x11) := by decide
theorem test_decode_escIn : decode 0b00100010_0000000000000000_01011110 = .ok (.escIn 0x5E) := by decide
theorem test_decode_encStart : decode 0b00110000_0000000000000010_00000000 = .ok (.encStart 2) := by decide
theorem test_decode_encStep : decode 0b00110001_0000000000000000_00000000 = .ok .encStep := by decide
theorem test_decode_decStart : decode 0b01000000_0000000000000000_00000000 = .ok .decStart := by decide
theorem test_decode_decByte : decode 0b01000001_0000000000000000_01111110 = .ok (.decByte 0x7E) := by decide
theorem test_decode_decTimeout : decode 0b01000010_0000000000000000_00000000 = .ok .decTimeout := by decide
theorem test_decode_txbWr : decode 0b01010000_0000000000000001_10111011 = .ok (.txbWr 1 0xBB) := by decide
theorem test_decode_txbRd : decode 0b01010001_1111111111111111_00000000 = .ok (.txbRd 0xFFFF) := by decide
theorem test_decode_rxbRd : decode 0b01010010_0000000000000001_00000000 = .ok (.rxbRd 1) := by decide
theorem test_decode_csrRd : decode 0b01100000_0000000000001010_00000000 = .ok (.csrRd 0x000A) := by decide
theorem test_decode_csrWr : decode 0b01100001_0000000000000000_00000001 = .ok (.csrWr 0 1) := by decide

/-- Rejected by name (30_encoding.md R100). -/
theorem test_decode_rejects_by_name :
    decode 0x00000000 = .error (.unassignedOp 0x00) ∧ decode 0x14000000 = .error (.unassignedOp 0x14) ∧
    decode 0x11000100 = .error .fieldNotZero ∧ decode 0x31000001 = .error .fieldNotZero := by decide

/-- The word the host offers is the next one to run, as the first command after reset. -/
theorem test_withFetchWord_runs_the_word :
    step (State.reset.withFetchWord 32 0x110000AA) = exec (.csAdd 0xAA) State.reset := rfl

/-! ### One step of each operation; results from 95_test_vectors.md -/

/-- 2.1: `CS.RESET` from any sum. -/
theorem test_csReset : (issue .csReset (onBlock { Codec.reset with cs0Sum := 0x65 })).codec.cs0Sum = 0x00 := by decide

/-- 2.1: `AA BB` wraps to `65`. -/
theorem test_csAdd_wraps :
    (issue (.csAdd 0xBB) (onBlock { Codec.reset with cs0Sum := 0xAA })).codec.cs0Sum = 0x65 := by decide

/-- 2.1: the checksum of `AA BB`. -/
theorem test_csFinalize : answer .csFinalize (onBlock { Codec.reset with cs0Sum := 0x65 }) = ⟨.ok, 0x009A⟩ := by decide

/-- 2.1: a wide sum verifies; `0x00FF, 0xFF` does not. -/
theorem test_csVerify :
    answer (.csVerify 0x0165 0x9A) State.reset = ⟨.ok, 1⟩ ∧ answer (.csVerify 0x00FF 0xFF) State.reset = ⟨.ok, 0⟩ := by
  decide

/-- 2.2: `13` is reserved, `12` is not. -/
theorem test_escNeeds :
    answer (.escNeeds 0x13) State.reset = ⟨.ok, 1⟩ ∧ answer (.escNeeds 0x12) State.reset = ⟨.ok, 0⟩ := by decide

/-- 2.2: a byte with bit 5 clear. -/
theorem test_escOut : answer (.escOut 0x11) State.reset = ⟨.ok, 0x0031⟩ := by decide

/-- 2.2: a byte with bit 5 set. -/
theorem test_escIn : answer (.escIn 0x5D) State.reset = ⟨.ok, 0x007D⟩ ∧
    answer (.escIn 0xFF) State.reset = ⟨.ok, 0x00DF⟩ := by decide

/-- 1.2, first row. -/
theorem test_encStart :
    answer (.encStart 1) State.reset = ⟨.ok, 0⟩ ∧ (issue (.encStart 1) State.reset).codec.encState = .delim ∧
    answer (.encStart 1) (onBlock sending) = ⟨.errBusy, 0⟩ := by decide

/-- 1.2, the row that answers `005E`: the escaped byte goes out and the last byte is next. -/
theorem test_encStep_escape :
    answer .encStep (onBlock sending) = ⟨.ok, 0x005E⟩ ∧ (issue .encStep (onBlock sending)).codec.encState = .csum ∧
    (issue .encStep (onBlock sending)).codec.encCnt = 1 := by decide

/-- 1.2, the last row: the checksum byte, sent raw. -/
theorem test_encStep_checksum :
    answer .encStep (onBlock { sending with encState := .csum }) = ⟨.ok, 0x0081⟩ ∧
    (issue .encStep (onBlock { sending with encState := .csum })).codec.encState = .idle := by decide

/-- 60_exceptions.md R275: re-arming erases the outcome. -/
theorem test_decStart :
    (issue .decStart (onBlock received)).codec.decResult = .none ∧
    csrValues (issue .decStart (onBlock received)).codec = [0, 0, 0, 0, 0, 0, 1, 0, 0, 0, 0, 0, 0, 0] := by decide

/-- 2.4, rows `7E 02 00 AA BB 9A` and, with the last byte changed, `7E 02 00 AA BB 00` (1.3). -/
theorem test_decByte_checksum :
    csrValues (issue (.decByte 0x9A) (onBlock receiving)).codec =
      [0, 0, 0, 0, 0, 0, 0, 2, 2, 0x65, 1, 0x9A, 0x9A, 0] ∧
    csrValues (issue (.decByte 0x00) (onBlock receiving)).codec =
      [0, 0, 0, 0, 0, 0, 0, 2, 2, 0x65, 2, 0x9A, 0x00, 6] := by decide

/-- 2.4, row `7D 5E`: no unescaping of the first byte. -/
theorem test_decByte_framing :
    answer (.decByte 0x7D) (issue .decStart State.reset) = ⟨.ok, 3⟩ ∧
    csrValues (issue (.decByte 0x7D) (issue .decStart State.reset)).codec =
      [0, 0, 0, 0, 0, 0, 0, 0, 0, 0, 3, 0, 0, 1] := by decide

/-- 2.4, row `7E 02 00 AA BB`, then timeout. -/
theorem test_decTimeout :
    answer .decTimeout (onBlock receiving) = ⟨.ok, 4⟩ ∧
    csrValues (issue .decTimeout (onBlock receiving)).codec = [0, 0, 0, 0, 0, 0, 0, 2, 2, 0x65, 4, 0, 0, 6] := by decide

/-- A store at the last address, read back (20_memory.md R64). -/
theorem test_txbWr_txbRd :
    answer (.txbRd 0xFFFF) (issue (.txbWr 0xFFFF 0xBB) State.reset) = ⟨.ok, 0x00BB⟩ ∧
    answer (.txbWr 0 0) (onBlock sending) = ⟨.errBusy, 0⟩ := by decide

/-- 2.4: the payload of a success, and the first address past it. -/
theorem test_rxbRd :
    answer (.rxbRd 1) (onBlock received) = ⟨.ok, 0x00BB⟩ ∧ answer (.rxbRd 2) (onBlock received) = ⟨.errNodata, 0⟩ := by
  decide

/-- 10_state.md R33. -/
theorem test_csrRd :
    answer (.csrRd 0x000B) (onBlock received) = ⟨.ok, 0x009A⟩ ∧
    answer (.csrRd 0x000E) (onBlock received) = ⟨.errIllegal, 0⟩ := by decide

/-- 60_exceptions.md R270, its four examples. -/
theorem test_refusal_order :
    (issue (.csrWr 0 1) State.reset).codec.cfgLenbe = true ∧
    answer (.csrWr 0x0005 0xFF) (onBlock sending) = ⟨.errIllegal, 0⟩ ∧
    answer (.csrWr 0 2) (onBlock sending) = ⟨.errIllegal, 0⟩ ∧
    answer (.csrWr 0 1) (onBlock sending) = ⟨.errBusy, 0⟩ ∧ decode 0x31000001 = .error .fieldNotZero := by decide

/-! ### The frame functions against 95_test_vectors.md 2.3 and 2.4 -/

theorem test_encodeFrame :
    encodeFrame [0xAA, 0xBB] false = [0x7E, 0x02, 0x00, 0xAA, 0xBB, 0x9A] ∧
    encodeFrame [0xAA, 0xBB] true = [0x7E, 0x00, 0x02, 0xAA, 0xBB, 0x9A] ∧
    encodeFrame [0x7E, 0x11, 0x42] false = [0x7E, 0x03, 0x00, 0x7D, 0x5E, 0x7D, 0x31, 0x42, 0x2E] := by decide

theorem test_decodeStream :
    decodeStream [0x7E, 0x01, 0x00, 0x7D, 0x7D, 0xA2] false = (.success [0x5D], []) ∧
    decodeStream [0x7E, 0x03, 0x00, 0xA1, 0x5E, 0x00, 0x00, 0x81] false = (.success [0xA1, 0x5E, 0x00], [0x81]) ∧
    decodeStream [0x7E, 0x02, 0x00, 0xAA, 0x7D] false = (.timeoutError .esc, []) ∧
    decodeStream [0x7E, 0x02] false = (.timeoutError .len1, []) := by decide

/-! ### Witnesses: concrete values that meet the hypotheses of each statement, clause by clause -/

theorem witness_DecodedWordIsItsOwnEncoding : decode 0x50FFFFBB = .ok (.txbWr 0xFFFF 0xBB) := by decide

theorem witness_TableRowSelectsExactlyItsOperation :
    decode 0x60000A00 = .ok (.csrRd 0x000A) ∧ opRow (.csrRd 0) ∈ opcodeTable ∧
    (opRow (.csrRd 0)).selects 0x60000A00 = true := by decide

/-- Both ends of every reserved range, and a non-zero unused field of each format. -/
theorem witness_IllegalWordsAreRefused :
    ((fieldOp 0x0FFFFFFF).toNat ≤ 0x0F ∧ 0x14 ≤ (fieldOp 0x14000000).toNat ∧ (fieldOp 0x1F000000).toNat ≤ 0x1F ∧
      0x23 ≤ (fieldOp 0x23000000).toNat ∧ (fieldOp 0x2F000000).toNat ≤ 0x2F ∧
      0x32 ≤ (fieldOp 0x32000000).toNat ∧ (fieldOp 0x3F000000).toNat ≤ 0x3F ∧
      0x43 ≤ (fieldOp 0x43000000).toNat ∧ (fieldOp 0x4F000000).toNat ≤ 0x4F ∧
      0x53 ≤ (fieldOp 0x53000000).toNat ∧ (fieldOp 0x5F000000).toNat ≤ 0x5F ∧ 0x62 ≤ (fieldOp 0x62000000).toNat) ∧
    ((fieldOp 0x10000100).toNat ∈ [0x10, 0x12, 0x31, 0x40, 0x42] ∧ fieldA 0x10000100 ≠ 0) ∧
    ((fieldOp 0x42000001).toNat ∈ [0x10, 0x12, 0x31, 0x40, 0x42] ∧ fieldD 0x42000001 ≠ 0) ∧
    ((fieldOp 0x41800000).toNat ∈ [0x11, 0x20, 0x21, 0x22, 0x41] ∧ fieldA 0x41800000 ≠ 0) ∧
    ((fieldOp 0x60000080).toNat ∈ [0x30, 0x51, 0x52, 0x60] ∧ fieldD 0x60000080 ≠ 0) := by decide

theorem witness_StepPerformsTheDecodedOperation :
    (State.reset.offerFirst 0x31000000).pending = [.command 0x31000000] ∧ decode 0x31000000 = .ok .encStep ∧
    decode 0x31000001 = .error .fieldNotZero ∧ State.reset.pending = [] ∧
    decodeTableWord 32 0x30000200 = some (.encStart 2) := by decide

theorem witness_ResetGivesEveryRegisterItsValue :
    ({ onBlock sending with pending := [.reset] } : State).pending = [.reset] ∧ (0x000D : Half).toNat ≤ 0x000D ∧
    step { onBlock sending with pending := [.reset] } =
      .next (onBlock { Codec.reset with txbuf := [(0, 0x7E)] }) := ⟨rfl, by decide, rfl⟩

theorem witness_RefusalChangesNothing :
    exec .encStep State.reset = .next (refused State.reset .errIdle) ∧
    deliverCommand 0x11000100 State.reset = .next (refused State.reset .errIllegal) ∧
    Status.errIdle ≠ .ok ∧ Status.errIllegal ≠ .ok := ⟨rfl, rfl, by decide, by decide⟩

theorem witness_OperationsWriteOnlyTheirFields :
    exec .encStep (onBlock sending) = .next (issue .encStep (onBlock sending)) ∧ Field.encLen ∉ writes .encStep ∧
    Field.txbuf ∉ writes .encStep := ⟨rfl, by decide, by decide⟩

/-- Two states that differ in everything but what `CS.FINALIZE` reads. -/
theorem witness_ResponseDependsOnlyOnFieldsRead :
    reads .csFinalize = [.cs0Sum] ∧ (onBlock sending).codec.cs0Sum = (onBlock receiving).codec.cs0Sum ∧
    onBlock sending ≠ onBlock receiving := by decide

theorem witness_DirectionsCommute :
    (encoderSide .encStep = true ∧ decoderSide (.decByte 0x7E) = true) ∧
    (encoderSide (.csrRd 0x0005) = true ∧ decoderSide (.csrRd 0x0006) = true) ∧
    (encoderSide (.csrRd 0x0002) = true ∧ decoderSide (.csrRd 0x000D) = true) ∧
    (componentSide (.csAdd 1) = true ∧ encoderSide (.txbWr 0 0) = true) ∧
    (componentSide (.escOut 1) = true ∧ decoderSide (.rxbRd 0) = true) := by decide

theorem witness_InterleavingIsEachDirectionAlone :
    ∀ i ∈ [Instr.encStart 1, .decStart, .encStep, .decByte 0x7E, .csAdd 1], isCsrWr i = false := by decide

/-- A frame in the middle of each direction meets the invariant. -/
theorem sending_meets_the_encoder_invariant : EncoderInv sending where
  count_le_length := by decide
  header := by decide
  data := by decide
  escape := by decide
  checksum := by decide
  sum := by decide

theorem receiving_meets_the_decoder_invariant : DecoderInv receiving where
  count_le_length := by decide
  header := by decide
  half_length := by decide
  payload := by decide
  checksum := by decide
  sum := by decide
  armed := by decide
  success := by decide
  no_outcome := by decide
  framing := by decide
  checksum_error := by decide
  timeout := by decide
  written := by decide

theorem received_meets_the_decoder_invariant : DecoderInv received where
  count_le_length := by decide
  header := by decide
  half_length := by decide
  payload := by decide
  checksum := by decide
  sum := by decide
  armed := by decide
  success := by decide
  no_outcome := by decide
  framing := by decide
  checksum_error := by decide
  timeout := by decide
  written := by decide

/-- The rest of a block that only receives. -/
theorem idle_encoder_meets_the_invariant (c : Codec) (hs : c.encState = .idle) (hc : c.encCnt = 0) : EncoderInv c where
  count_le_length := by simp [hc]
  header := by simp [hs]
  data := by simp [hs]
  escape := by simp [hs]
  checksum := by simp [hs]
  sum := by simp [hs]

theorem receiving_meets_the_invariant : receiving.Inv :=
  ⟨by decide, by decide, idle_encoder_meets_the_invariant _ rfl rfl, receiving_meets_the_decoder_invariant⟩

theorem received_meets_the_invariant : received.Inv :=
  ⟨by decide, by decide, idle_encoder_meets_the_invariant _ rfl rfl, received_meets_the_decoder_invariant⟩

theorem witness_EveryStepKeepsTheInvariant :
    ({ onBlock receiving with pending := [.command 0x4100009A] } : State).codec.Inv ∧
    step { onBlock receiving with pending := [.command 0x4100009A] } =
      .next (taken (onBlock receiving) received 0x9A 1) :=
  ⟨receiving_meets_the_invariant, rfl⟩

theorem witness_ProgramAtThePortRunsInOrder :
    ({ State.reset with pending := [.command 0x30000000, .command 0x31000000, .reset] } : State).pending =
      [Instr.encStart 0, .encStep].map (fun i => PortEvent.command (encode i)) ++ [.reset] := by decide

theorem witness_CsResetClearsTheSum :
    (fieldOp 0x10000100 = 0x10 ∧ fieldA 0x10000100 ≠ 0) ∧ (fieldOp 0x10000001 = 0x10 ∧ fieldD 0x10000001 ≠ 0) := by
  decide

theorem witness_CsAddAddsModulo256 : fieldOp 0x11000100 = 0x11 ∧ fieldA 0x11000100 ≠ 0 := by decide

theorem witness_CsFinalizeAnswersTheChecksum :
    (fieldOp 0x12800000 = 0x12 ∧ fieldA 0x12800000 ≠ 0) ∧ (fieldOp 0x12000080 = 0x12 ∧ fieldD 0x12000080 ≠ 0) := by
  decide

theorem witness_CsVerifyAnswersTheVerdict : fieldOp 0x13FFFFFF = 0x13 := by decide

theorem witness_SumAndChecksumComplete : [(0xAA : Byte), 0xBB].Perm [0xBB, 0xAA] := by decide

theorem witness_VerifyAcceptsExactlyTheFinalizedByte :
    1 < [(0xAA : Byte), 0xBB].length ∧ (0xBA : Byte) ≠ [(0xAA : Byte), 0xBB][1] := by decide

theorem witness_WideEngineAgrees : [(0xAA : Byte), 0xBB].length ≤ Config.payloadMax := by decide

theorem witness_EscNeedsAnswersMembership : fieldOp 0x20000100 = 0x20 ∧ fieldA 0x20000100 ≠ 0 := by decide

theorem witness_EscOutAndEscInAnswerTheTransform :
    (fieldOp 0x21000100 = 0x21 ∧ fieldA 0x21000100 ≠ 0) ∧ (fieldOp 0x22800000 = 0x22 ∧ fieldA 0x22800000 ≠ 0) := by
  decide

theorem witness_TransformLaws : needsEscape 0x7E = true := by decide

theorem witness_EncStartBeginsAFrame :
    State.reset.codec.encState = .idle ∧ (onBlock sending).codec.encState ≠ .idle ∧
    fieldOp 0x30000001 = 0x30 ∧ fieldD 0x30000001 ≠ 0 := by decide

/-- A state for every clause; both kinds of payload byte, and the last byte of a payload. -/
theorem witness_EncStepEmitsTheNextWireByte :
    State.reset.codec.encState = .idle ∧ ({ sending with encState := .delim } : Codec).encState = .delim ∧
    ({ sending with encState := .len0 } : Codec).encState = .len0 ∧
    ({ sending with encState := .len1 } : Codec).encState = .len1 ∧
    (({ sending with encState := .data, encCnt := 0 } : Codec).encState = .data ∧
      reserved (({ sending with encState := .data, encCnt := 0 } : Codec).readTx 0) = true) ∧
    (({ sending with encState := .data, encCnt := 0, txbuf := [(0, 0x41)] } : Codec).encState = .data ∧
      reserved (({ sending with encState := .data, encCnt := 0, txbuf := [(0, 0x41)] } : Codec).readTx 0) = false) ∧
    sending.encState = .esc ∧ ({ sending with encState := .csum } : Codec).encState = .csum ∧
    (fieldOp 0x31000100 = 0x31 ∧ fieldA 0x31000100 ≠ 0) ∧ (fieldOp 0x31000001 = 0x31 ∧ fieldD 0x31000001 ≠ 0) := by
  decide

/-- The payload `7E`, with refused stores, a refused byte order write and the decoder's commands between the steps. -/
theorem witness_EncoderRefinesEncodeUnderInterleaving :
    ({ Codec.reset with txbuf := [(0, 0x7E)] } : Codec).encState = .idle ∧
    [Instr.encStep, .txbWr 0 0, .encStep, .csrWr 0 1, .decStart, .encStep, .encStart 9, .encStep, .encStep].count
      .encStep + 1 = frameLength (({ Codec.reset with txbuf := [(0, 0x7E)] } : Codec).txPayload 1) := by decide

theorem witness_FrameTakesExactlyItsLengthInSteps : State.reset.codec.encState = .idle := by decide

theorem witness_EncodePutsTheFrameOnTheWire :
    [(0x7E : Byte), 0x11].length ≤ Config.payloadMax ∧ (onBlock receiving).codec.encState = .idle := by decide

theorem witness_FrameLengthAndStuffing :
    [(0x7E : Byte)].length ≤ Config.payloadMax ∧ (0x7D : Byte) ∈ stuff [0x7E] ∧ (0x5E : Byte) ∈ stuff [0x7E] := by decide

theorem witness_DecStartArmsTheDecoder :
    (onBlock received).codec.decState = .idle ∧ (onBlock receiving).codec.decState ≠ .idle ∧
    (fieldOp 0x40000100 = 0x40 ∧ fieldA 0x40000100 ≠ 0) ∧ (fieldOp 0x40000001 = 0x40 ∧ fieldD 0x40000001 ≠ 0) := by
  decide

theorem witness_DecByteTakesOneByteAndAnswersTheResult :
    State.reset.codec.decState = .idle ∧ (onBlock receiving).codec.Inv ∧ (onBlock receiving).codec.decState ≠ .idle ∧
    fieldOp 0x41000100 = 0x41 ∧ fieldA 0x41000100 ≠ 0 :=
  ⟨by decide, receiving_meets_the_invariant, by decide, by decide, by decide⟩

theorem witness_DecByteJudgesTheDelimiter :
    (issue .decStart State.reset).codec.decState = .delim ∧ (0x7F : Byte) ≠ 0x7E := by decide

theorem witness_DecByteAssemblesTheLength :
    ({ Codec.reset with decState := .len0 } : Codec).decState = .len0 ∧
    ({ Codec.reset with decState := .len1, decLen := 2 } : Codec).decState = .len1 := by decide

theorem witness_DecByteAppendsTheLogicalByte :
    ({ receiving with decState := .data, decCnt := 1 } : Codec).decState = .data ∧ (0x7E : Byte) ≠ 0x7D ∧
    ({ receiving with decState := .esc, decCnt := 1 } : Codec).decState = .esc ∧ (0x5E : Byte) = 0x7E ^^^ 0x20 := by
  decide

theorem witness_DecByteValidatesTheChecksum :
    receiving.decState = .csum ∧ (receiving.rxcsSum.toNat + (0x9A : Byte).toNat) % 256 = 0xFF ∧
    (receiving.rxcsSum.toNat + (0x9B : Byte).toNat) % 256 ≠ 0xFF := by decide

theorem witness_DecTimeoutEndsTheDecode :
    (onBlock receiving).codec.decState ≠ .idle ∧ State.reset.codec.decState = .idle ∧
    (fieldOp 0x42000100 = 0x42 ∧ fieldA 0x42000100 ≠ 0) ∧ (fieldOp 0x42000001 = 0x42 ∧ fieldD 0x42000001 ≠ 0) := by
  decide

/-- A checksum error, a framing error and a timeout. -/
theorem witness_ErrorOutcomeSavesItsStateAndDiscardsTheFrame :
    (exec (.decByte 0) (onBlock receiving) = .next (issue (.decByte 0) (onBlock receiving)) ∧
      (onBlock receiving).codec.decState ≠ .idle ∧ (issue (.decByte 0) (onBlock receiving)).codec.decState = .idle ∧
      (issue (.decByte 0) (onBlock receiving)).codec.decResult = .checksum) ∧
    ((issue (.decByte 0) (issue .decStart State.reset)).codec.decState = .idle ∧
      (issue (.decByte 0) (issue .decStart State.reset)).codec.decResult = .framing) ∧
    ((issue .decTimeout (onBlock receiving)).codec.decState = .idle ∧
      (issue .decTimeout (onBlock receiving)).codec.decResult = .timeout) :=
  ⟨⟨rfl, by decide⟩, by decide, by decide⟩

theorem witness_SequencersMoveOnlyByTheirTables :
    exec .encStep (onBlock sending) = .next (issue .encStep (onBlock sending)) ∧
    (issue .encStep (onBlock sending)).codec.encState ≠ (onBlock sending).codec.encState ∧
    (issue (.decByte 0) (onBlock receiving)).codec.decState ≠ (onBlock receiving).codec.decState :=
  ⟨rfl, by decide, by decide⟩

theorem witness_DecoderRefinesDecode : (onBlock sending).codec.decState = .idle := by decide

theorem witness_DecodeOfEncodeIsThePayload : [(0x7E : Byte), 0x00].length ≤ Config.payloadMax := by decide

theorem witness_LoopBackReturnsThePayload :
    [(0xAA : Byte), 0xBB].length ≤ Config.payloadMax ∧ (onBlock received).codec.encState = .idle ∧
    (onBlock received).codec.decState = .idle := by decide

theorem witness_OneChangedWireByteIsCaught :
    (0 < [(0x7E : Byte), 0x42].length ∧ reserved [(0x7E : Byte), 0x42][0] = true ∧
      (0x5F : Byte) ≠ [(0x7E : Byte), 0x42][0] ^^^ 0x20) ∧
    (1 < [(0x7E : Byte), 0x42].length ∧ reserved [(0x7E : Byte), 0x42][1] = false ∧
      (0x7E : Byte) ≠ [(0x7E : Byte), 0x42][1] ∧ (0x7E : Byte) ≠ 0x7D) ∧
    (0x00 : Byte) ≠ cks [0x7E, 0x42] ∧ (0x7D : Byte) ≠ 0x7E ∧ [(0x7E : Byte), 0x42].length ≤ Config.payloadMax := by
  decide

theorem witness_TxbWrStoresOneByte :
    State.reset.codec.encState = .idle ∧ (onBlock sending).codec.encState ≠ .idle ∧ (0x0000 : Half) ≠ 0xFFFF := by decide

theorem witness_TxbRdAnswersTheByte : fieldOp 0x51000001 = 0x51 ∧ fieldD 0x51000001 ≠ 0 := by decide

theorem witness_UnwrittenLocationIsStable : State.reset.codec.txbuf.lookup (0xFFFF : Half).toNat = none := by decide

/-- The last payload address, the first past it, and a block without a success. -/
theorem witness_RxbRdShowsOnlyAValidPayload :
    ((onBlock received).codec.decResult = .success ∧ (1 : Half).toNat < (onBlock received).codec.decLen.toNat) ∧
    (onBlock received).codec.decLen.toNat ≤ (2 : Half).toNat ∧ (onBlock receiving).codec.decResult ≠ .success ∧
    fieldOp 0x52000001 = 0x52 ∧ fieldD 0x52000001 ≠ 0 := by decide

theorem witness_RxbRdNeverShowsAnUnwrittenByte :
    (onBlock received).codec.Inv ∧ (answer (.rxbRd 1) (onBlock received)).status = .ok :=
  ⟨received_meets_the_invariant, by decide⟩

/-- The first and the last register, and the first number past them. -/
theorem witness_CsrRdAnswersTheRegister :
    (csrValues received)[(0x0000 : Half).toNat]? = some 0 ∧
    (csrValues { received with decEstate := .csum })[(0x000D : Half).toNat]? = some 6 ∧
    0x000D < (0x000E : Half).toNat ∧ fieldOp 0x60000001 = 0x60 ∧ fieldD 0x60000001 ≠ 0 := by decide

theorem witness_CsrWrWritesTheByteOrderWhenIdle :
    (0x0001 : Half) ≠ 0x0000 ∧ 2 ≤ (2 : Byte).toNat ∧ (1 : Byte).toNat < 2 ∧
    (onBlock sending).codec.encState ≠ .idle ∧ (onBlock receiving).codec.decState ≠ .idle ∧
    State.reset.codec.encState = .idle ∧ State.reset.codec.decState = .idle := by decide

/-- The transport that always reports a timeout keeps its duty. -/
theorem timeouts_are_fair (s : State) : TransportFair (fun _ => .command 0x42000000) s :=
  fun k _ => ⟨k, Nat.le_refl k, rfl⟩

/-- An armed decoder that is given only commands of others; a list with just as many bytes as the longest frame; a fair
transport. -/
theorem witness_ArmedDecoderWaitsForAFairTransport :
    ((onBlock receiving).codec.decState ≠ .idle ∧
      ∀ e ∈ [PortEvent.command 0x31000000, .command 0x40000000, .command 0x61000001, .command 0x00000000],
        e.service = false ∧ e ≠ .reset) ∧
    ((onBlock receiving).codec.Inv ∧ 4 + 2 * Config.payloadMax ≤
      (List.replicate 131074 (PortEvent.command 0x4100007E)).countP PortEvent.service) ∧
    TransportFair (fun _ => .command 0x42000000) (onBlock receiving) := by
  refine ⟨by decide, ⟨receiving_meets_the_invariant, ?_⟩, timeouts_are_fair _⟩
  rw [List.countP_replicate, if_pos (by decide)]
  decide

/-- `ENC.STEP` and a reset are no service of the decoder, a timeout is (00_scope.md R11). -/
theorem test_service : PortEvent.service (.command 0x31000000) = false ∧ PortEvent.service .reset = false ∧
    PortEvent.service (.command 0x42000000) = true ∧ PortEvent.service (.command 0x42000001) = false := by decide

end Sys2Proof.Tests
end

section
/-! PROOFS. Decoding an encoded operation, what every command leaves, one step at the port; and the statements of
00_scope.md that rest on them. -/

namespace Sys2Proof

/-! ### An encoded operation decodes, format by format (30_encoding.md R96) -/

@[simp] theorem decodeZ_mkWord (i : Instr) (op : Byte) : decodeZ i (mkWord op 0#16 0#8) = .ok i := by
  simp [decodeZ]

@[simp] theorem decodeD_mkWord (mk : Byte → Instr) (op d : Byte) : decodeD mk (mkWord op 0#16 d) = .ok (mk d) := by
  simp [decodeD]

@[simp] theorem decodeA_mkWord (mk : Half → Instr) (op : Byte) (a : Half) :
    decodeA mk (mkWord op a 0#8) = .ok (mk a) := by
  simp [decodeA]

@[simp] theorem decodeAD_mkWord (mk : Half → Byte → Instr) (op : Byte) (a : Half) (d : Byte) :
    decodeAD mk (mkWord op a d) = .ok (mk a d) := by
  simp [decodeAD]

/-- The `op` code selects the operation's own row of `decode`; the row's format gives the operands back. -/
@[simp] theorem decode_encode (i : Instr) : decode (encode i) = .ok i := by
  cases i <;> simp [encode, decode]

/-- What the host reads from a table word is what the decoder gives for its low bits. -/
theorem decodeTableWord_eq_some (nbits w : Nat) (i : Instr) :
    decodeTableWord nbits w = some i ↔ decode (BitVec.ofNat 32 (w % 2 ^ nbits)) = .ok i := by
  unfold decodeTableWord
  cases decode (BitVec.ofNat 32 (w % 2 ^ nbits)) <;> simp [Except.toOption]

end Sys2Proof

namespace Sys2Proof.Machine

/-! ### What every command leaves (00_scope.md R10, 60_exceptions.md R266) -/

/-- The four ways a command is answered, by the state it leaves: refused, performed with no wire byte, performed with a
byte put on the transmit wire, performed with a byte taken off the receive wire. -/
inductive Answered (s : State) : State → Prop
  | refusal (st : Status) (hst : st ≠ .ok) : Answered s (refused s st)
  | performance (c : Codec) (data : Half) : Answered s (performed s c data)
  | emission (c : Codec) (b : Byte) : Answered s (emitted s c b)
  | reception (c : Codec) (d : Byte) (data : Half) : Answered s (taken s c d data)

theorem Answered.refuse (s : State) {st : Status} (hst : st ≠ .ok) : Answered s (s.refuse st) := .refusal st hst

theorem Answered.respond (s : State) (data : Half) : Answered s (s.respond .ok data) := .performance s.codec data

theorem Answered.setCodec_respond (s : State) (c : Codec) (data : Half) :
    Answered s ((s.setCodec c).respond .ok data) := .performance c data

theorem Answered.emit (s : State) (c : Codec) (b : Byte) :
    Answered s (((s.setCodec c).emit b).respond .ok (zext b)) := by
  have hzext : zext b = BitVec.ofNat 16 b.toNat := (BitVec.ofNat_toNat 16 b).symm
  rw [hzext]
  exact .emission c b

theorem Answered.consume (s : State) (c : Codec) (d : Byte) (data : Half) :
    Answered s (((s.setCodec c).consume d).respond .ok data) := .reception c d data

/-- Every operation is answered in one of the four ways: the split is each operation's own refusals
(60_exceptions.md R263). -/
theorem issue_answered (i : Instr) (s : State) : Answered s (issue i s) := by
  cases i with
  | csReset | csAdd => exact .setCodec_respond s _ _
  | csFinalize | csVerify | escNeeds | escOut | escIn | txbRd => exact .respond s _
  | encStart | txbWr | decStart =>
    simp only [issue_encStart, issue_txbWr, issue_decStart]
    split
    · exact .refuse s (by decide)
    · exact .setCodec_respond s _ _
  | encStep =>
    rw [issue_encStep]
    split
    · exact .refuse s (by decide)
    · exact .emit s _ _
  | decByte d =>
    rw [issue_decByte]
    split
    · exact .refuse s (by decide)
    · exact .consume s _ d _
  | decTimeout =>
    rw [issue_decTimeout]
    split
    · exact .setCodec_respond s _ _
    · exact .refuse s (by decide)
  | rxbRd a =>
    rw [issue_rxbRd]
    split
    · exact .respond s _
    · exact .refuse s (by decide)
  | csrRd a =>
    rw [issue_csrRd]
    split
    · exact .refuse s (by decide)
    · exact .respond s _
  | csrWr a d =>
    rw [issue_csrWr]
    split_ifs
    case neg => exact .setCodec_respond s _ _
    all_goals exact .refuse s (by decide)

/-- Every command word is answered, also one that spells no operation (30_encoding.md R102). -/
theorem receive_command_answered (w : Word) (s : State) : Answered s (receive (.command w) s) := by
  cases h : decode w with
  | ok i => rw [receive_command_of_decodes w i s h]; exact issue_answered i s
  | error e => rw [receive_command_of_illegal w e s h]; exact .refuse s (by decide)

theorem Answered.one_response {s t : State} (h : Answered s t) : ∃ r, t.responses = s.responses ++ [r] := by
  cases h <;> exact ⟨_, rfl⟩

theorem Answered.pending {s t : State} (h : Answered s t) : t.pending = s.pending := by
  cases h <;> rfl

@[simp] theorem issue_pending (i : Instr) (s : State) : (issue i s).pending = s.pending := (issue_answered i s).pending

/-! ### One step at the port -/

theorem deliverCommand_eq_receive (w : Word) (s : State) : deliverCommand w s = .next (receive (.command w) s) :=
  deliver_eq_receive (.command w) s

theorem step_of_nothing_pending (s : State) (h : s.pending = []) : step s = .next s := by
  simp only [step, State.takeEvent_nil s h]

/-- A step with a word pending that decodes is its operation issued. -/
theorem step_of_decodes (s : State) (w : Word) (i : Instr) (rest : List PortEvent)
    (hp : s.pending = .command w :: rest) (hd : decode w = .ok i) :
    step s = .next (issue i { s with pending := rest }) := by
  rw [step_eq_receive s _ rest hp, receive_command_of_decodes w i _ hd]

theorem step_answers_next (s : State) : ∃ t, step s = .next t := by
  cases hp : s.pending with
  | nil => exact ⟨s, step_of_nothing_pending s hp⟩
  | cons e rest => exact ⟨_, step_eq_receive s e rest hp⟩

/-- A run begins with its first step. -/
theorem run_succ_of_step {s t : State} (k : Nat) (h : step s = .next t) :
    Host.Core.run Sys2Proof.core (k + 1) s = Host.Core.run Sys2Proof.core k t := by
  have hcore : Sys2Proof.core.step s = .next t := h
  simp only [Host.Core.run, hcore]

/-- No operation reads or writes the port: what is pending can be replaced before it or after it. -/
theorem issue_with_pending (i : Instr) (s : State) (es : List PortEvent) :
    issue i { s with pending := es } = { issue i s with pending := es } := by
  cases i with
  | csReset | csAdd | csFinalize | csVerify | escNeeds | escOut | escIn | txbRd => rfl
  | encStart | txbWr | decStart | decTimeout | rxbRd | encStep | decByte | csrRd =>
    simp only [issue_encStart, issue_txbWr, issue_decStart, issue_decTimeout, issue_rxbRd, issue_encStep,
      issue_decByte, issue_csrRd]
    split <;> rfl
  | csrWr =>
    simp only [issue_csrWr]
    split_ifs <;> rfl

/-! ### The statements -/

/-- Settles O8: a step is the oldest event received, and the word offered is that event. -/
theorem stepPerformsTheDecodedOperation : Obligations.StepPerformsTheDecodedOperation := by
  unfold Obligations.StepPerformsTheDecodedOperation
  refine ⟨fun s w i rest hp hd => ?_, fun s w e rest hp hd => ?_, step_of_nothing_pending, fun s nbits w i hd => ?_⟩
  · rw [exec_eq_issue, step_of_decodes s w i rest hp hd]
  · rw [step_eq_receive s _ rest hp, receive_command_of_illegal w e _ hd]
    rfl
  · rw [exec_eq_issue]
    exact step_of_decodes (s.withFetchWord nbits w) _ i s.pending rfl ((decodeTableWord_eq_some nbits w i).mp hd)

/-- Settles O11: however an operation or a word is answered, one response is added and the port is as it was. -/
theorem everyCommandGetsExactlyOneResponse : Obligations.EveryCommandGetsExactlyOneResponse := by
  unfold Obligations.EveryCommandGetsExactlyOneResponse
  refine ⟨fun i s => ?_, fun w s => ?_, step_answers_next⟩
  · obtain ⟨r, hr⟩ := (issue_answered i s).one_response
    exact ⟨_, r, exec_eq_issue i s, hr, issue_pending i s⟩
  · have h := receive_command_answered w s
    obtain ⟨r, hr⟩ := h.one_response
    exact ⟨_, r, deliverCommand_eq_receive w s, hr, h.pending⟩

/-- Settles O20, by induction on the operations: the first step issues the first of them and leaves the words of the
others at the port. -/
theorem programAtThePortRunsInOrder : Obligations.ProgramAtThePortRunsInOrder := by
  unfold Obligations.ProgramAtThePortRunsInOrder
  intro is
  induction is with
  | nil =>
    intro s rest hp
    obtain rfl : rest = s.pending := hp.symm
    rfl
  | cons i is ih =>
    intro s rest hp
    rw [List.map_cons, List.cons_append] at hp
    generalize hlater : is.map (fun i => PortEvent.command (encode i)) ++ rest = later at hp
    have hstep := step_of_decodes s (encode i) i later hp (decode_encode i)
    have hport := issue_pending i { s with pending := later }
    calc Host.Core.run core (is.length + 1) s
      _ = Host.Core.run core is.length (issue i { s with pending := later }) := run_succ_of_step is.length hstep
      _ = .next (issueAll is { issue i { s with pending := later } with pending := rest }) :=
        ih _ rest (hport.trans hlater.symm)
      _ = .next (issueAll (i :: is) { s with pending := rest }) := by rw [← issue_with_pending]; rfl

end Sys2Proof.Machine
end

section
/-! PROOFS. What each operation writes and what each answers (10_state.md R23): the frame of every update of the block,
the answer of every operation, and the statements of 10_state.md that rest on them. -/

namespace Sys2Proof.Machine

/-! ### The frame of every update of the block -/

theorem Field.same_refl (f : Field) (c : Codec) : f.same c c := by
  cases f <;> simp [Field.same]

/-- The update of `c` to `c'` changes no field outside `fs`. -/
def Codec.ChangesOnly (fs : List Field) (c c' : Codec) : Prop := ∀ f, f ∉ fs → f.same c c'

theorem Codec.ChangesOnly.refl (fs : List Field) (c : Codec) : c.ChangesOnly fs c := fun f _ => f.same_refl c

theorem Codec.changesOnly_cs0Sum (c : Codec) (v : Byte) : c.ChangesOnly [.cs0Sum] { c with cs0Sum := v } := by
  intro f hf
  have hsame := f.same_refl c
  cases f with
  | cs0Sum => simp at hf
  | _ => exact hsame

theorem Codec.changesOnly_cfgLenbe (c : Codec) (b : Bool) : c.ChangesOnly [.cfg] { c with cfgLenbe := b } := by
  intro f hf
  have hsame := f.same_refl c
  cases f with
  | cfg => simp at hf
  | _ => exact hsame

theorem Codec.changesOnly_writeTx (c : Codec) (a : Half) (v : Byte) : c.ChangesOnly [.txbuf] (c.writeTx a v) := by
  intro f hf
  have hsame := f.same_refl c
  cases f with
  | txbuf => simp at hf
  | _ => exact hsame

theorem Codec.changesOnly_startFrame (c : Codec) (n : Half) :
    c.ChangesOnly [.encState, .encLen, .encCnt, .txcsSum] (c.startFrame n) := by
  intro f hf
  have hsame := f.same_refl c
  cases f with
  | encState | encLen | encCnt | txcsSum => simp at hf
  | _ => exact hsame

theorem Codec.changesOnly_armDecoder (c : Codec) :
    c.ChangesOnly [.decState, .decLen, .decCnt, .rxcsSum, .decResult, .decExpectedReceived, .decEstate]
      c.armDecoder := by
  intro f hf
  have hsame := f.same_refl c
  cases f with
  | decState | decLen | decCnt | rxcsSum | decResult | decExpectedReceived | decEstate => simp at hf
  | _ => exact hsame

theorem Codec.changesOnly_endInError (c : Codec) (cause : DecResult) :
    c.ChangesOnly [.decState, .decResult, .decEstate] (c.endInError cause) := by
  intro f hf
  have hsame := f.same_refl c
  cases f with
  | decState | decResult | decEstate => simp at hf
  | _ => exact hsame

theorem Codec.changesOnly_of_encMove {c c' : Codec} {b : Byte} (h : c.encMove = some (c', b)) :
    c.ChangesOnly [.encState, .encCnt, .txcsSum, .encHold] c' := by
  intro f hf
  have hframe := Codec.encMove_frame c c' b h
  cases f with
  | encState | encCnt | txcsSum | encHold => simp at hf
  | txbuf => exact Codec.readTx_congr c c' (by simp [hframe])
  | rxbuf => exact Codec.readRx_congr c c' (by simp [hframe])
  | _ => simp [Field.same, hframe]

theorem Codec.changesOnly_of_decMove {c c' : Codec} {d : Byte} {r : DecResult} (h : c.decMove d = some (c', r)) :
    c.ChangesOnly decoderFields c' := by
  intro f hf
  have hframe := Codec.decMove_frame c c' d r h
  cases f with
  | decState | decLen | decCnt | rxcsSum | decResult | decExpectedReceived | decEstate | rxbuf =>
    simp [decoderFields] at hf
  | txbuf => exact Codec.readTx_congr c c' (by simp [hframe])
  | _ => simp [Field.same, hframe]

/-- Every operation keeps to the `w` marks of its row: it leaves the block as it is, or makes the one update of its rule
(10_state.md R23). -/
theorem issue_changesOnly_writes (i : Instr) (s : State) : s.codec.ChangesOnly (writes i) (issue i s).codec := by
  cases i with
  | csReset | csAdd => exact Codec.changesOnly_cs0Sum _ _
  | csFinalize | csVerify | escNeeds | escOut | escIn | txbRd => exact .refl _ _
  | encStart n =>
    rw [issue_encStart]
    split
    · exact .refl _ _
    · exact Codec.changesOnly_startFrame _ n
  | encStep =>
    rw [issue_encStep]
    split
    · exact .refl _ _
    · next hmove => exact Codec.changesOnly_of_encMove hmove
  | decStart =>
    rw [issue_decStart]
    split
    · exact .refl _ _
    · exact Codec.changesOnly_armDecoder _
  | decByte d =>
    rw [issue_decByte]
    split
    · exact .refl _ _
    · next hmove => exact Codec.changesOnly_of_decMove hmove
  | decTimeout =>
    rw [issue_decTimeout]
    split
    · exact Codec.changesOnly_endInError _ .timeout
    · exact .refl _ _
  | txbWr a d =>
    rw [issue_txbWr]
    split
    · exact .refl _ _
    · exact Codec.changesOnly_writeTx _ a d
  | rxbRd a =>
    rw [issue_rxbRd]
    split <;> exact .refl _ _
  | csrRd a =>
    rw [issue_csrRd]
    split <;> exact .refl _ _
  | csrWr a d =>
    rw [issue_csrWr]
    split_ifs
    case neg => exact Codec.changesOnly_cfgLenbe _ _
    all_goals exact .refl _ _

/-! ### The answer of every operation -/

/-- The answer is the response given last. -/
theorem answer_of_issue_eq_respond {i : Instr} {s t : State} {st : Status} {v : Half}
    (h : issue i s = t.respond st v) : answer i s = ⟨st, v⟩ := by
  simp [answer, h]

@[simp] theorem answer_csReset (s : State) : answer .csReset s = ⟨.ok, 0⟩ :=
  answer_of_issue_eq_respond (issue_csReset s)

@[simp] theorem answer_csAdd (d : Byte) (s : State) : answer (.csAdd d) s = ⟨.ok, 0⟩ :=
  answer_of_issue_eq_respond (issue_csAdd d s)

@[simp] theorem answer_csFinalize (s : State) : answer .csFinalize s = ⟨.ok, zext (csFin s.codec.cs0Sum)⟩ :=
  answer_of_issue_eq_respond (issue_csFinalize s)

@[simp] theorem answer_csVerify (a : Half) (d : Byte) (s : State) :
    answer (.csVerify a d) s = ⟨.ok, verdict (csVer a.toNat d)⟩ :=
  answer_of_issue_eq_respond (issue_csVerify a d s)

@[simp] theorem answer_escNeeds (d : Byte) (s : State) : answer (.escNeeds d) s = ⟨.ok, verdict (needsEscape d)⟩ :=
  answer_of_issue_eq_respond (issue_escNeeds d s)

@[simp] theorem answer_escOut (d : Byte) (s : State) : answer (.escOut d) s = ⟨.ok, zext (x20 d)⟩ :=
  answer_of_issue_eq_respond (issue_escOut d s)

@[simp] theorem answer_escIn (d : Byte) (s : State) : answer (.escIn d) s = ⟨.ok, zext (x20 d)⟩ :=
  answer_of_issue_eq_respond (issue_escIn d s)

@[simp] theorem answer_txbRd (a : Half) (s : State) : answer (.txbRd a) s = ⟨.ok, zext (s.codec.readTx a)⟩ :=
  answer_of_issue_eq_respond (issue_txbRd a s)

theorem answer_encStart (n : Half) (s : State) :
    answer (.encStart n) s = if s.codec.encBusy then ⟨.errBusy, 0⟩ else ⟨.ok, 0⟩ := by
  simp only [answer, issue_encStart]
  split <;> simp

theorem answer_txbWr (a : Half) (d : Byte) (s : State) :
    answer (.txbWr a d) s = if s.codec.encBusy then ⟨.errBusy, 0⟩ else ⟨.ok, 0⟩ := by
  simp only [answer, issue_txbWr]
  split <;> simp

theorem answer_decStart (s : State) :
    answer .decStart s = if s.codec.decBusy then ⟨.errBusy, 0⟩ else ⟨.ok, 0⟩ := by
  simp only [answer, issue_decStart]
  split <;> simp

theorem answer_decTimeout (s : State) :
    answer .decTimeout s = if s.codec.decBusy then ⟨.ok, resultData .timeout⟩ else ⟨.errIdle, 0⟩ := by
  simp only [answer, issue_decTimeout]
  split <;> simp

/-- `ENC.STEP` answers the byte its move emits. -/
theorem answer_encStep (s : State) :
    answer .encStep s = (s.codec.encMove.map Prod.snd).elim ⟨.errIdle, 0⟩ fun b => ⟨.ok, zext b⟩ := by
  simp only [answer, issue_encStep]
  split <;> next hmove => simp [hmove]

/-- `DEC.BYTE` answers the result code of its move. -/
theorem answer_decByte (d : Byte) (s : State) :
    answer (.decByte d) s =
      ((s.codec.decMove d).map Prod.snd).elim ⟨.errIdle, 0⟩ fun r => ⟨.ok, resultData r⟩ := by
  simp only [answer, issue_decByte]
  split <;> next hmove => simp [hmove]

theorem answer_rxbRd (a : Half) (s : State) :
    answer (.rxbRd a) s = if s.codec.rxValid a then ⟨.ok, zext (s.codec.readRx a)⟩ else ⟨.errNodata, 0⟩ := by
  simp only [answer, issue_rxbRd]
  split <;> simp

theorem answer_csrRd (a : Half) (s : State) :
    answer (.csrRd a) s = (csrOfNumber a).elim ⟨.errIllegal, 0⟩ fun r => ⟨.ok, s.codec.csrView r⟩ := by
  simp only [answer, issue_csrRd]
  cases csrOfNumber a <;> simp

theorem answer_csrWr (a : Half) (d : Byte) (s : State) :
    answer (.csrWr a d) s =
      if csrWriteIllegal a then ⟨.errIllegal, 0⟩
      else if cfgValueIllegal d then ⟨.errIllegal, 0⟩
      else if s.codec.encBusy || s.codec.decBusy then ⟨.errBusy, 0⟩
      else ⟨.ok, 0⟩ := by
  simp only [answer, issue_csrWr]
  split_ifs <;> simp

/-! ### What an answer depends on -/

theorem Codec.encBusy_congr {c c' : Codec} (h : c.encState = c'.encState) : c.encBusy = c'.encBusy := by
  simp only [Codec.encBusy, h]

theorem Codec.decBusy_congr {c c' : Codec} (h : c.decState = c'.decState) : c.decBusy = c'.decBusy := by
  simp only [Codec.decBusy, h]

theorem Codec.rxValid_congr {c c' : Codec} (hresult : c.decResult = c'.decResult) (hlen : c.decLen = c'.decLen)
    (a : Half) : c.rxValid a = c'.rxValid a := by
  simp only [Codec.rxValid, hresult, hlen]

/-- A control register shows its own field and no other. -/
theorem Codec.csrView_congr {c c' : Codec} (r : Csr) (h : r.field.same c c') : c.csrView r = c'.csrView r := by
  cases r <;> simp_all [Csr.field, Field.same, Codec.csrView]

/-- The byte the encoder emits depends on what `ENC.STEP` reads (42_encoder.md R177). -/
theorem Codec.encMove_byte_congr {c c' : Codec} (h : ∀ f ∈ reads .encStep, f.same c c') :
    c.encMove.map Prod.snd = c'.encMove.map Prod.snd := by
  simp only [reads, List.forall_mem_cons, Field.same] at h
  obtain ⟨hcfg, hstate, hlen, hcnt, hsum, hhold, hbuf, -⟩ := h
  unfold Codec.encMove
  rw [← hstate]
  cases c.encState with
  | idle | delim => rfl
  | len0 | len1 => simp [hcfg, hlen]
  | data =>
    simp only [Codec.encData, ← hbuf, ← hcnt]
    split <;> rfl
  | esc => simp [hhold]
  | csum => simp [hsum]

/-- The result code of the decoder's move depends on `DEC.state` and, where the byte is a checksum, on `RXCS.sum`
(43_decoder.md R215). -/
theorem Codec.decMove_result_congr {c c' : Codec} (d : Byte) (hstate : c.decState = c'.decState)
    (hsum : c.rxcsSum = c'.rxcsSum) : (c.decMove d).map Prod.snd = (c'.decMove d).map Prod.snd := by
  unfold Codec.decMove
  rw [← hstate]
  cases c.decState with
  | idle | len0 | len1 | esc => rfl
  | delim => simp only [Codec.takeDelim]; split <;> rfl
  | data => simp only [Codec.takeData]; split <;> rfl
  | csum => simp only [Codec.takeCsum, ← hsum]; split <;> rfl

/-! ### The statements -/

/-- Settles O14: each operation makes no update but that of its rule, and each update has its frame. -/
theorem operationsWriteOnlyTheirFields : Obligations.OperationsWriteOnlyTheirFields := by
  unfold Obligations.OperationsWriteOnlyTheirFields
  intro i s t f hexec hf
  obtain rfl : issue i s = t := by simpa [exec_eq_issue] using hexec
  exact issue_changesOnly_writes i s f hf

/-- Settles O15: the answer of each operation is a function of the fields it reads. -/
theorem responseDependsOnlyOnFieldsRead : Obligations.ResponseDependsOnlyOnFieldsRead := by
  unfold Obligations.ResponseDependsOnlyOnFieldsRead
  intro i s t h
  cases i with
  | csReset | csAdd | csVerify | escNeeds | escOut | escIn => simp
  | csFinalize =>
    have hsum : s.codec.cs0Sum = t.codec.cs0Sum := h .cs0Sum (by simp [reads])
    simp [hsum]
  | encStart | txbWr =>
    have hbusy := Codec.encBusy_congr (h .encState (by simp [reads]))
    simp only [answer_encStart, answer_txbWr, hbusy]
  | encStep => rw [answer_encStep, answer_encStep, Codec.encMove_byte_congr h]
  | decStart | decTimeout =>
    have hbusy := Codec.decBusy_congr (h .decState (by simp [reads]))
    simp only [answer_decStart, answer_decTimeout, hbusy]
  | decByte d =>
    have hresult := Codec.decMove_result_congr d (h .decState (by simp [reads])) (h .rxcsSum (by simp [reads]))
    rw [answer_decByte, answer_decByte, hresult]
  | txbRd a =>
    have hbyte : s.codec.readTx a = t.codec.readTx a := h .txbuf (by simp [reads]) a
    simp [hbyte]
  | rxbRd a =>
    have hbyte : s.codec.readRx a = t.codec.readRx a := h .rxbuf (by simp [reads]) a
    have hvalid := Codec.rxValid_congr (h .decResult (by simp [reads])) (h .decLen (by simp [reads])) a
    rw [answer_rxbRd, answer_rxbRd, hvalid, hbyte]
  | csrRd a =>
    rw [answer_csrRd, answer_csrRd]
    cases hcsr : csrOfNumber a with
    | none => rfl
    | some r =>
      have hview := Codec.csrView_congr r (h r.field (by simp [reads, hcsr]))
      simp [hview]
  | csrWr a d =>
    have henc := Codec.encBusy_congr (h .encState (by simp [reads]))
    have hdec := Codec.decBusy_congr (h .decState (by simp [reads]))
    rw [answer_csrWr, answer_csrWr, henc, hdec]

end Sys2Proof.Machine
end

section
/-! PROOFS. What a read of each buffer answers where nothing has been written and where something has (20_memory.md R76,
R77), and the statements of 20_memory.md. -/

namespace Sys2Proof.Machine

/-- Zero extension keeps the number. -/
theorem zext_eq_ofNat (b : Byte) : zext b = BitVec.ofNat 16 b.toNat := (BitVec.ofNat_toNat 16 b).symm

/-- What a location written since power-up reads as. -/
theorem Codec.readRx_written (c : Codec) (a : Half) (b : Byte) (h : c.rxbuf.lookup a.toNat = some b) :
    c.readRx a = b := by
  simp [Codec.readRx, h]

theorem Codec.rxValid_eq_true (c : Codec) (a : Half) :
    c.rxValid a = true ↔ c.decResult = .success ∧ a.toNat < c.decLen.toNat := by
  simp [Codec.rxValid]

/-- A success has counted its whole payload, and what is counted has been written (43_decoder.md R221 (h);
20_memory.md R77). -/
theorem DecoderInv.written_of_rxValid {c : Codec} (h : DecoderInv c) {a : Half} (hvalid : c.rxValid a = true) :
    ∃ b, c.rxbuf.lookup a.toNat = some b := by
  obtain ⟨hsuccess, hlt⟩ := (c.rxValid_eq_true a).mp hvalid
  obtain ⟨-, -, hcnt, -⟩ := h.success hsuccess
  rw [← hcnt] at hlt
  exact Option.isSome_iff_exists.mp (h.written a.toNat hlt)

/-- `RXB.RD` answers `OK` just where there is a valid payload byte (44_buffer_and_csr.md R242). -/
theorem answer_rxbRd_status_eq_ok (a : Half) (s : State) :
    (answer (.rxbRd a) s).status = .ok ↔ s.codec.rxValid a = true := by
  rw [answer_rxbRd]
  split <;> simp_all

theorem answer_rxbRd_of_rxValid {a : Half} {s : State} (h : s.codec.rxValid a = true) :
    answer (.rxbRd a) s = ⟨.ok, zext (s.codec.readRx a)⟩ := by
  rw [answer_rxbRd, if_pos h]

/-! ### The statements -/

/-- Settles O57: `OK` means a valid payload byte, and the invariant has every location of a valid payload written. -/
theorem rxbRdNeverShowsAnUnwrittenByte : Obligations.RxbRdNeverShowsAnUnwrittenByte := by
  unfold Obligations.RxbRdNeverShowsAnUnwrittenByte
  intro a s hinv hok
  have hvalid := (answer_rxbRd_status_eq_ok a s).mp hok
  obtain ⟨b, hb⟩ := hinv.decoder.written_of_rxValid hvalid
  refine ⟨b, hb, ?_⟩
  rw [answer_rxbRd_of_rxValid hvalid, Codec.readRx_written _ a b hb, zext_eq_ofNat]

/-- Settles O55: the answer is the byte `TXBUF` reads as, and `TXB.RD` leaves the block as it is. -/
theorem unwrittenLocationIsStable : Obligations.UnwrittenLocationIsStable := by
  unfold Obligations.UnwrittenLocationIsStable
  intro a s hunwritten
  constructor
  · rw [answer_txbRd, Codec.readTx_unwritten _ a hunwritten, zext_eq_ofNat]
  · have hcodec : (issue (.txbRd a) s).codec = s.codec := by simp
    rw [answer_txbRd, answer_txbRd, hcodec]

end Sys2Proof.Machine
end

section
/-! PROOFS. The encoding (30_encoding.md): the number and the fields of a word, the words that spell an operation, the
rows of the opcode table, the illegal words, the response word and the frame on the wire; and the statements of that
chapter. -/

namespace Sys2Proof

/-! ### The fields of a word as numbers (30_encoding.md R95) -/

theorem fieldOp_toNat (w : Word) : (fieldOp w).toNat = w.toNat / 2 ^ 24 := by
  have hw := w.isLt
  simp only [fieldOp, BitVec.extractLsb'_toNat, Nat.shiftRight_eq_div_pow]
  omega

theorem fieldA_toNat (w : Word) : (fieldA w).toNat = w.toNat / 2 ^ 8 % 2 ^ 16 := by
  simp only [fieldA, BitVec.extractLsb'_toNat, Nat.shiftRight_eq_div_pow]

theorem fieldD_toNat (w : Word) : (fieldD w).toNat = w.toNat % 2 ^ 8 := by
  simp only [fieldD, BitVec.extractLsb'_toNat, Nat.shiftRight_zero]

/-! ### The words that spell an operation (30_encoding.md R96, R99) -/

/-- A word whose unused fields are zero, with its `op` code as the decoder reads it. -/
theorem mkWord_of_fields {w : Word} {n : Nat} {a : Half} {d : Byte} (hop : (fieldOp w).toNat = n)
    (ha : fieldA w = a) (hd : fieldD w = d) : mkWord (BitVec.ofNat 8 n) a d = w := by
  rw [← hop, ← ha, ← hd, BitVec.ofNat_toNat, BitVec.setWidth_eq, mkWord_fields]

theorem encode_of_decodeZ {w : Word} {n : Nat} {i j : Instr} (hop : (fieldOp w).toNat = n)
    (hrow : encode i = mkWord (BitVec.ofNat 8 n) 0 0) (h : decodeZ i w = .ok j) : encode j = w := by
  unfold decodeZ at h
  split at h
  next hzero =>
    obtain ⟨ha, hd⟩ := hzero
    cases h
    rw [hrow, mkWord_of_fields hop ha hd]
  next => cases h

theorem encode_of_decodeD {w : Word} {n : Nat} {mk : Byte → Instr} {j : Instr} (hop : (fieldOp w).toNat = n)
    (hrow : ∀ d, encode (mk d) = mkWord (BitVec.ofNat 8 n) 0 d) (h : decodeD mk w = .ok j) : encode j = w := by
  unfold decodeD at h
  split at h
  next hzero =>
    cases h
    rw [hrow, mkWord_of_fields hop hzero rfl]
  next => cases h

theorem encode_of_decodeA {w : Word} {n : Nat} {mk : Half → Instr} {j : Instr} (hop : (fieldOp w).toNat = n)
    (hrow : ∀ a, encode (mk a) = mkWord (BitVec.ofNat 8 n) a 0) (h : decodeA mk w = .ok j) : encode j = w := by
  unfold decodeA at h
  split at h
  next hzero =>
    cases h
    rw [hrow, mkWord_of_fields hop rfl hzero]
  next => cases h

theorem encode_of_decodeAD {w : Word} {n : Nat} {mk : Half → Byte → Instr} {j : Instr}
    (hop : (fieldOp w).toNat = n) (hrow : ∀ a d, encode (mk a d) = mkWord (BitVec.ofNat 8 n) a d)
    (h : decodeAD mk w = .ok j) : encode j = w := by
  cases h
  rw [hrow, mkWord_of_fields hop rfl rfl]

/-- The decoder drops no bit of a legal word: the split is the rows of the opcode map, each closed by its format. -/
theorem encode_of_decode {w : Word} {i : Instr} (h : decode w = .ok i) : encode i = w := by
  unfold decode at h
  split at h
  case h_1 hop | h_3 hop | h_9 hop | h_10 hop | h_12 hop => exact encode_of_decodeZ hop rfl h
  case h_2 hop | h_5 hop | h_6 hop | h_7 hop | h_11 hop => exact encode_of_decodeD hop (fun _ => rfl) h
  case h_8 hop | h_14 hop | h_15 hop | h_16 hop => exact encode_of_decodeA hop (fun _ => rfl) h
  case h_4 hop | h_13 hop | h_17 hop => exact encode_of_decodeAD hop (fun _ _ => rfl) h
  case h_18 => cases h

theorem decode_eq_ok_iff (w : Word) (i : Instr) : decode w = .ok i ↔ encode i = w :=
  ⟨encode_of_decode, fun h => h ▸ decode_encode i⟩

/-! ### The rows of the opcode table (30_encoding.md R96) -/

theorem mkWord_and_mkWord (op op' : Byte) (a a' : Half) (d d' : Byte) :
    mkWord op a d &&& mkWord op' a' d' = mkWord (op &&& op') (a &&& a') (d &&& d') := by
  have hhigh : (op ++ a) &&& (op' ++ a') = (op &&& op') ++ (a &&& a') := BitVec.and_append
  exact BitVec.and_append.trans (congrArg (· ++ (d &&& d')) hhigh)

theorem mkWord_inj (op op' : Byte) (a a' : Half) (d d' : Byte) :
    mkWord op a d = mkWord op' a' d' ↔ op = op' ∧ a = a' ∧ d = d' := by
  constructor
  · intro h
    exact ⟨by simpa using congrArg fieldOp h, by simpa using congrArg fieldA h, by simpa using congrArg fieldD h⟩
  · rintro ⟨rfl, rfl, rfl⟩
    rfl

/-- A match under a mask is a match of each field under the mask's field. -/
theorem and_mkWord_eq_mkWord (w : Word) (mop op : Byte) (ma a : Half) (md d : Byte) :
    w &&& mkWord mop ma md = mkWord op a d ↔ fieldOp w &&& mop = op ∧ fieldA w &&& ma = a ∧ fieldD w &&& md = d := by
  rw [← mkWord_fields w, mkWord_and_mkWord, mkWord_inj, mkWord_fields]

theorem mkWord_of_zMask {w : Word} {op : Byte} (h : w &&& Format.z.mask = mkWord op 0 0) : mkWord op 0 0 = w := by
  obtain ⟨rfl, ha, hd⟩ := (and_mkWord_eq_mkWord w (.allOnes 8) op (.allOnes 16) 0 (.allOnes 8) 0).mp h
  rw [← ha, ← hd]
  simp only [BitVec.and_allOnes, mkWord_fields]

theorem mkWord_of_dMask {w : Word} {op : Byte} (h : w &&& Format.d.mask = mkWord op 0 0) :
    mkWord op 0 (fieldD w) = w := by
  obtain ⟨rfl, ha, -⟩ := (and_mkWord_eq_mkWord w (.allOnes 8) op (.allOnes 16) 0 0 0).mp h
  rw [← ha]
  simp only [BitVec.and_allOnes, mkWord_fields]

theorem mkWord_of_aMask {w : Word} {op : Byte} (h : w &&& Format.a.mask = mkWord op 0 0) :
    mkWord op (fieldA w) 0 = w := by
  obtain ⟨rfl, -, hd⟩ := (and_mkWord_eq_mkWord w (.allOnes 8) op 0 0 (.allOnes 8) 0).mp h
  rw [← hd]
  simp only [BitVec.and_allOnes, mkWord_fields]

theorem mkWord_of_adMask {w : Word} {op : Byte} (h : w &&& Format.ad.mask = mkWord op 0 0) :
    mkWord op (fieldA w) (fieldD w) = w := by
  obtain ⟨rfl, -, -⟩ := (and_mkWord_eq_mkWord w (.allOnes 8) op 0 0 0 0).mp h
  simp only [BitVec.and_allOnes, mkWord_fields]

/-- A word a row selects is the encoding of an operation of that row, its operands read from the word's fields. -/
theorem exists_encode_of_selects {k : Instr} {w : Word} (h : (opRow k).selects w = true) :
    ∃ i, encode i = w ∧ opRow i = opRow k := by
  have hmatch : w &&& (opRow k).mask = (opRow k).code := eq_of_beq h
  cases k with
  | csReset => exact ⟨.csReset, mkWord_of_zMask hmatch, rfl⟩
  | csAdd => exact ⟨.csAdd (fieldD w), mkWord_of_dMask hmatch, rfl⟩
  | csFinalize => exact ⟨.csFinalize, mkWord_of_zMask hmatch, rfl⟩
  | csVerify => exact ⟨.csVerify (fieldA w) (fieldD w), mkWord_of_adMask hmatch, rfl⟩
  | escNeeds => exact ⟨.escNeeds (fieldD w), mkWord_of_dMask hmatch, rfl⟩
  | escOut => exact ⟨.escOut (fieldD w), mkWord_of_dMask hmatch, rfl⟩
  | escIn => exact ⟨.escIn (fieldD w), mkWord_of_dMask hmatch, rfl⟩
  | encStart => exact ⟨.encStart (fieldA w), mkWord_of_aMask hmatch, rfl⟩
  | encStep => exact ⟨.encStep, mkWord_of_zMask hmatch, rfl⟩
  | decStart => exact ⟨.decStart, mkWord_of_zMask hmatch, rfl⟩
  | decByte => exact ⟨.decByte (fieldD w), mkWord_of_dMask hmatch, rfl⟩
  | decTimeout => exact ⟨.decTimeout, mkWord_of_zMask hmatch, rfl⟩
  | txbWr => exact ⟨.txbWr (fieldA w) (fieldD w), mkWord_of_adMask hmatch, rfl⟩
  | txbRd => exact ⟨.txbRd (fieldA w), mkWord_of_aMask hmatch, rfl⟩
  | rxbRd => exact ⟨.rxbRd (fieldA w), mkWord_of_aMask hmatch, rfl⟩
  | csrRd => exact ⟨.csrRd (fieldA w), mkWord_of_aMask hmatch, rfl⟩
  | csrWr => exact ⟨.csrWr (fieldA w) (fieldD w), mkWord_of_adMask hmatch, rfl⟩

/-- An operation's own row selects its word, by the family `EncodedRow`. -/
theorem selects_encode (i : Instr) : (opRow i).selects (encode i) = true := by
  cases i with
  | csReset => exact Laws.EncodedRow.csReset
  | csAdd d => exact Laws.EncodedRow.csAdd d
  | csFinalize => exact Laws.EncodedRow.csFinalize
  | csVerify a d => exact Laws.EncodedRow.csVerify a d
  | escNeeds d => exact Laws.EncodedRow.escNeeds d
  | escOut d => exact Laws.EncodedRow.escOut d
  | escIn d => exact Laws.EncodedRow.escIn d
  | encStart a => exact Laws.EncodedRow.encStart a
  | encStep => exact Laws.EncodedRow.encStep
  | decStart => exact Laws.EncodedRow.decStart
  | decByte d => exact Laws.EncodedRow.decByte d
  | decTimeout => exact Laws.EncodedRow.decTimeout
  | txbWr a d => exact Laws.EncodedRow.txbWr a d
  | txbRd a => exact Laws.EncodedRow.txbRd a
  | rxbRd a => exact Laws.EncodedRow.rxbRd a
  | csrRd a => exact Laws.EncodedRow.csrRd a
  | csrWr a d => exact Laws.EncodedRow.csrWr a d

theorem exists_opRow_of_mem_opcodeTable {r : OpRow} (h : r ∈ opcodeTable) : ∃ k, opRow k = r := by
  obtain ⟨k, -, hk⟩ := List.mem_map.mp h
  exact ⟨k, hk⟩

theorem exists_decode_of_selects {r : OpRow} {w : Word} (hr : r ∈ opcodeTable) (h : r.selects w = true) :
    ∃ i, decode w = .ok i ∧ opRow i = r := by
  obtain ⟨k, rfl⟩ := exists_opRow_of_mem_opcodeTable hr
  obtain ⟨i, hw, hrow⟩ := exists_encode_of_selects h
  exact ⟨i, (decode_eq_ok_iff w i).mpr hw, hrow⟩

theorem opRow_mask (i : Instr) : (opRow i).mask = (opRow i).format.mask := by
  cases i <;> rfl

/-! ### The illegal words (30_encoding.md R100) -/

/-- The seven ranges of reserved `op` codes (30_encoding.md R100). -/
def ReservedOp (n : Nat) : Prop :=
  n ≤ 0x0F ∨ (0x14 ≤ n ∧ n ≤ 0x1F) ∨ (0x23 ≤ n ∧ n ≤ 0x2F) ∨ (0x32 ≤ n ∧ n ≤ 0x3F) ∨ (0x43 ≤ n ∧ n ≤ 0x4F) ∨
    (0x53 ≤ n ∧ n ≤ 0x5F) ∨ 0x62 ≤ n

/-- The `op` codes of format `Z` (30_encoding.md R99). -/
def opCodesZ : List Nat := [0x10, 0x12, 0x31, 0x40, 0x42]

/-- The `op` codes of format `D` (30_encoding.md R99). -/
def opCodesD : List Nat := [0x11, 0x20, 0x21, 0x22, 0x41]

/-- The `op` codes of format `A` (30_encoding.md R99). -/
def opCodesA : List Nat := [0x30, 0x51, 0x52, 0x60]

/-- What the fields of a legal word can be: its `op` code is not reserved, and the fields its format leaves out are zero
(30_encoding.md R96). -/
theorem fields_encode (i : Instr) :
    ¬ ReservedOp (fieldOp (encode i)).toNat ∧
    ((fieldOp (encode i)).toNat ∈ opCodesZ → fieldA (encode i) = 0 ∧ fieldD (encode i) = 0) ∧
    ((fieldOp (encode i)).toNat ∈ opCodesD → fieldA (encode i) = 0) ∧
    ((fieldOp (encode i)).toNat ∈ opCodesA → fieldD (encode i) = 0) := by
  cases i <;> simp [encode, ReservedOp, opCodesZ, opCodesD, opCodesA]

end Sys2Proof

namespace Sys2Proof.Machine

/-- A word that is no operation's word is refused and changes nothing. -/
theorem deliverCommand_of_no_operation {w : Word} (s : State) (h : ∀ i, encode i ≠ w) :
    deliverCommand w s = .next (refused s .errIllegal) := by
  cases hd : decode w with
  | ok i => exact absurd (encode_of_decode hd) (h i)
  | error e =>
    rw [deliverCommand_eq_receive, receive_command_of_illegal w e s hd]
    rfl

theorem deliverCommand_of_reservedOp {w : Word} (s : State) (hop : ReservedOp (fieldOp w).toNat) :
    deliverCommand w s = .next (refused s .errIllegal) := by
  refine deliverCommand_of_no_operation s fun i hi => ?_
  subst hi
  obtain ⟨hassigned, -⟩ := fields_encode i
  exact hassigned hop

theorem deliverCommand_of_opCodeZ {w : Word} (s : State) (hop : (fieldOp w).toNat ∈ opCodesZ)
    (h : fieldA w ≠ 0 ∨ fieldD w ≠ 0) : deliverCommand w s = .next (refused s .errIllegal) := by
  refine deliverCommand_of_no_operation s fun i hi => ?_
  subst hi
  obtain ⟨-, hzero, -⟩ := fields_encode i
  obtain ⟨ha, hd⟩ := hzero hop
  exact h.elim (· ha) (· hd)

theorem deliverCommand_of_opCodeD {w : Word} (s : State) (hop : (fieldOp w).toNat ∈ opCodesD) (h : fieldA w ≠ 0) :
    deliverCommand w s = .next (refused s .errIllegal) := by
  refine deliverCommand_of_no_operation s fun i hi => ?_
  subst hi
  obtain ⟨-, -, hzero, -⟩ := fields_encode i
  exact h (hzero hop)

theorem deliverCommand_of_opCodeA {w : Word} (s : State) (hop : (fieldOp w).toNat ∈ opCodesA) (h : fieldD w ≠ 0) :
    deliverCommand w s = .next (refused s .errIllegal) := by
  refine deliverCommand_of_no_operation s fun i hi => ?_
  subst hi
  obtain ⟨-, -, -, hzero⟩ := fields_encode i
  exact h (hzero hop)

/-! ### The response word (30_encoding.md R97) -/

theorem Response.word_toNat (r : Response) : r.word.toNat = r.status.code.toNat * 2 ^ 16 + r.data.toNat := by
  rw [Response.word, BitVec.toNat_append, ← Nat.shiftLeft_add_eq_or_of_lt r.data.isLt, Nat.shiftLeft_eq]

/-! ### The frame on the wire (30_encoding.md R91 to R94) -/

theorem reserved_eq_true (b : Byte) : reserved b = true ↔ b = 0x7E ∨ b = 0x7D ∨ b = 0x11 ∨ b = 0x13 := by
  simp [reserved, or_assoc]

/-- The transform takes a reserved byte out of the reserved set. -/
theorem reserved_xor_of_reserved {b : Byte} (h : reserved b = true) : reserved (b ^^^ 0x20) = false := by
  rcases (reserved_eq_true b).mp h with rfl | rfl | rfl | rfl <;> decide

theorem stuff1_of_reserved {b : Byte} (h : reserved b = true) : stuff1 b = [0x7D, b ^^^ 0x20] := by
  rw [stuff1, if_pos h]

theorem stuff1_of_not_reserved {b : Byte} (h : ¬ reserved b = true) : stuff1 b = [b] := by
  rw [stuff1, if_neg h]

theorem length_stuff1 (b : Byte) : (stuff1 b).length = 1 + if reserved b = true then 1 else 0 := by
  unfold stuff1
  split <;> rfl

theorem length_stuff (p : List Byte) : (stuff p).length = p.length + p.countP reserved := by
  induction p with
  | nil => rfl
  | cons b p ih =>
    rw [stuff, List.length_append, length_stuff1, ih, List.countP_cons, List.length_cons]
    omega

theorem length_lenBytes (n : Nat) (o : Bool) : (lenBytes n o).length = 2 := by
  cases o <;> rfl

theorem length_encodeFrame (p : List Byte) (o : Bool) : (encodeFrame p o).length = frameLength p := by
  simp only [encodeFrame, frameLength, List.length_append, List.length_singleton, length_lenBytes, length_stuff]
  omega

theorem eq_marker_or_not_reserved_of_mem_stuff1 {b c : Byte} (h : c ∈ stuff1 b) : c = 0x7D ∨ reserved c = false := by
  by_cases hb : reserved b = true
  · rw [stuff1_of_reserved hb, List.mem_pair] at h
    obtain hc | hc := h
    · exact .inl hc
    · exact .inr (hc ▸ reserved_xor_of_reserved hb)
  · rw [stuff1_of_not_reserved hb, List.mem_singleton] at h
    exact .inr (h ▸ eq_false_of_ne_true hb)

theorem mem_stuff {p : List Byte} {c : Byte} : c ∈ stuff p ↔ ∃ b ∈ p, c ∈ stuff1 b := by
  induction p with
  | nil => simp [stuff]
  | cons b p ih => rw [stuff, List.mem_append, ih, List.exists_mem_cons_iff]

/-! ### The statements -/

/-- Settles O1: the `op` code selects the operation's row, and its format gives the operands back. -/
theorem encodedOperationDecodesToItself : Obligations.EncodedOperationDecodesToItself := by
  unfold Obligations.EncodedOperationDecodesToItself
  exact decode_encode

/-- Settles O2: each row of the opcode map keeps all three fields of the word, or tests them to be zero. -/
theorem decodedWordIsItsOwnEncoding : Obligations.DecodedWordIsItsOwnEncoding := by
  unfold Obligations.DecodedWordIsItsOwnEncoding
  intro w i h
  exact encode_of_decode h

/-- Settles O3: a legal word is an encoding, which its own row selects; a row that selects a word gives an operation the
word decodes to, so two such rows are one. -/
theorem tableRowSelectsExactlyItsOperation : Obligations.TableRowSelectsExactlyItsOperation := by
  unfold Obligations.TableRowSelectsExactlyItsOperation
  refine ⟨fun w i h => ⟨?_, fun r hr hsel => ?_⟩, fun w r hr hsel => exists_decode_of_selects hr hsel, opRow_mask⟩
  · rw [← encode_of_decode h]
    exact selects_encode i
  · obtain ⟨j, hj, rfl⟩ := exists_decode_of_selects hr hsel
    obtain rfl : i = j := Except.ok.inj (h.symm.trans hj)
    rfl

/-- Settles O6: no encoding has a reserved `op` code or a value in a field its format leaves out; the all-zero and the
all-ones word have reserved codes. -/
theorem illegalWordsAreRefused : Obligations.IllegalWordsAreRefused := by
  unfold Obligations.IllegalWordsAreRefused
  refine ⟨fun w s => deliverCommand_of_reservedOp s, fun w s => deliverCommand_of_opCodeZ s,
    fun w s => deliverCommand_of_opCodeD s, fun w s => deliverCommand_of_opCodeA s, by decide, fun s => ⟨?_, ?_⟩⟩
  · have hop : (fieldOp 0x00000000).toNat ≤ 0x0F := by decide
    exact deliverCommand_of_reservedOp s (.inl hop)
  · have hop : 0x62 ≤ (fieldOp 0xFFFFFFFF).toNat := by decide
    exact deliverCommand_of_reservedOp s (by unfold ReservedOp; omega)

/-- Settles O38: every byte is stuffed to one byte, or to two where it is reserved. -/
theorem frameLengthAndStuffing : Obligations.FrameLengthAndStuffing := by
  unfold Obligations.FrameLengthAndStuffing
  refine ⟨length_encodeFrame, fun p o hp => ?_, fun p c hc => ?_⟩
  · have hreserved : p.countP reserved ≤ p.length := List.countP_le_length
    rw [length_encodeFrame]
    unfold frameLength
    unfold Config.payloadMax at hp
    omega
  · obtain ⟨b, -, hb⟩ := mem_stuff.mp hc
    exact eq_marker_or_not_reserved_of_mem_stuff1 hb

/-- Settles O4: the eight words are the encodings of their operations, which decode back. -/
theorem workedEncodingsDecode : Obligations.WorkedEncodingsDecode := by
  unfold Obligations.WorkedEncodingsDecode
  have both {i : Instr} {w : Word} (h : encode i = w) : decode w = .ok i ∧ encode i = w :=
    ⟨(decode_eq_ok_iff w i).mpr h, h⟩
  exact ⟨both rfl, both rfl, both rfl, both rfl, both rfl, both rfl, both rfl, both rfl⟩

/-- Settles O5: the fields are quotients and remainders of the word, and the word is put together from them. -/
theorem wordIsItsThreeFields : Obligations.WordIsItsThreeFields := by
  unfold Obligations.WordIsItsThreeFields
  intro w
  refine ⟨?_, fieldOp_toNat w, fieldA_toNat w, fieldD_toNat w⟩
  rw [← mkWord_toNat, mkWord_fields]

/-- Settles O7: the data fills the 16 bits below the status code. -/
theorem responseWordHoldsStatusAndData : Obligations.ResponseWordHoldsStatusAndData := by
  unfold Obligations.ResponseWordHoldsStatusAndData
  exact ⟨fun st data => Response.word_toNat ⟨st, data⟩, rfl, rfl, rfl, rfl, rfl⟩

end Sys2Proof.Machine
end

section
/-! PROOFS. The ChecksumEngine (40_checksum.md): its functions as numbers, the sum of a payload, an engine that is given
a payload, the words of the four operations; and the statements of that chapter. -/

namespace Sys2Proof.Machine

/-! ### The functions of the engine as numbers (40_checksum.md R131 to R133) -/

theorem csAdd_toNat (sum b : Byte) : (csAdd sum b).toNat = (sum.toNat + b.toNat) % 256 := BitVec.toNat_add sum b

theorem csFin_toNat (sum : Byte) : (csFin sum).toNat = 0xFF - sum.toNat := by
  have hsum := sum.isLt
  have hbase : Config.ckBase.toNat = 0xFF := rfl
  rw [csFin, BitVec.toNat_sub, hbase]
  omega

theorem csVer_eq_true (n : Nat) (c : Byte) : csVer n c = true ↔ (n + c.toNat) % 256 = 0xFF := beq_iff_eq

/-- A sum of any width is verified by the finalized byte of its low 8 bits and by no other (40_checksum.md R137, R140). -/
theorem csVer_eq_true_iff_eq_csFin (n : Nat) (c : Byte) : csVer n c = true ↔ c = csFin (BitVec.ofNat 8 n) := by
  have hc := c.isLt
  rw [csVer_eq_true, ← BitVec.toNat_inj, csFin_toNat, BitVec.toNat_ofNat]
  omega

/-- Verify sees the low 8 bits of a sum (40_checksum.md R139). -/
theorem csVer_mod (n : Nat) (c : Byte) : csVer (n % 256) c = csVer n c := by
  simp only [csVer, Nat.mod_add_mod]

/-! ### The sum and the checksum of a payload (40_checksum.md R138) -/

theorem payloadSum_eq_sum_map (p : List Byte) : payloadSum p = (p.map BitVec.toNat).sum := by
  induction p with
  | nil => rfl
  | cons b p ih => rw [payloadSum, ih, List.map_cons, List.sum_cons]

theorem payloadSum_perm {p q : List Byte} (h : p.Perm q) : payloadSum p = payloadSum q := by
  rw [payloadSum_eq_sum_map, payloadSum_eq_sum_map]
  exact (h.map BitVec.toNat).sum_eq

/-- Every byte adds at most 255. -/
theorem payloadSum_le (p : List Byte) : payloadSum p ≤ p.length * 0xFF := by
  induction p with
  | nil => exact Nat.le_refl 0
  | cons b p ih =>
    have hb := b.isLt
    rw [payloadSum, List.length_cons]
    omega

/-- Replacing a byte takes the old one out of the sum and puts the new one in. -/
theorem payloadSum_set (p : List Byte) (k : Nat) (y : Byte) (h : k < p.length) :
    payloadSum (p.set k y) + p[k].toNat = payloadSum p + y.toNat := by
  induction p generalizing k with
  | nil => cases h
  | cons b p ih =>
    cases k with
    | zero =>
      simp only [List.set_cons_zero, List.getElem_cons_zero, payloadSum]
      omega
    | succ k =>
      have htail := ih k (Nat.lt_of_succ_lt_succ h)
      simp only [List.set_cons_succ, List.getElem_cons_succ, payloadSum]
      omega

theorem sum8_toNat (p : List Byte) : (sum8 p).toNat = payloadSum p % 256 := by
  rw [sum8, BitVec.toNat_ofNat, Nat.mod_mod]

theorem cks_toNat (p : List Byte) : (cks p).toNat = 0xFF - payloadSum p % 256 := by
  rw [cks, BitVec.toNat_ofNat]
  omega

/-- The checksum is the finalized byte of the sum kept in 8 bits. -/
theorem cks_eq_csFin_sum8 (p : List Byte) : cks p = csFin (sum8 p) := by
  apply BitVec.eq_of_toNat_eq
  rw [cks_toNat, csFin_toNat, sum8_toNat]

/-! ### An engine that is given a payload (40_checksum.md R138) -/

/-- A cleared accumulator given a payload holds its sum: the last byte is one more `add`. -/
theorem foldl_csAdd_csZero (p : List Byte) : p.foldl csAdd csZero = sum8 p := by
  induction p using List.reverseRecOn with
  | nil => rfl
  | append_singleton p b ih => rw [List.foldl_concat, ih, sum8_append_byte]

/-- A run of `CS.ADD` adds its bytes to `CS0.sum` in order. -/
theorem issueAll_csAdd_cs0Sum (p : List Byte) (s : State) :
    (issueAll (p.map .csAdd) s).codec.cs0Sum = p.foldl csAdd s.codec.cs0Sum := by
  induction p generalizing s with
  | nil => rfl
  | cons b p ih => exact ih (issue (.csAdd b) s)

/-- The same run after `CS.RESET` leaves the sum of the payload, whatever `CS0.sum` was. -/
theorem issueAll_csReset_csAdd_cs0Sum (p : List Byte) (s : State) :
    (issueAll (.csReset :: p.map .csAdd) s).codec.cs0Sum = sum8 p := by
  rw [← foldl_csAdd_csZero]
  exact issueAll_csAdd_cs0Sum p (issue .csReset s)

/-! ### The words of the operations (30_encoding.md R96) -/

/-- A word that decodes is delivered as its operation. -/
theorem deliverCommand_of_decodes {w : Word} {i : Instr} (s : State) (h : decode w = .ok i) :
    deliverCommand w s = exec i s := by
  rw [deliverCommand_eq_receive, receive_command_of_decodes w i s h, exec_eq_issue]

/-- Every word with the `op` code of `CS.VERIFY` is its encoding: both fields are operands. -/
theorem encode_csVerify_fields {w : Word} (hop : fieldOp w = 0x13) : encode (.csVerify (fieldA w) (fieldD w)) = w := by
  rw [encode, ← hop, mkWord_fields]

/-! ### The statements -/

/-- Settles O25: the reset and the adds leave `sum8` of the payload, and `cks` is `CSfin` of that. -/
theorem addedPayloadFinalizesToItsChecksum : Obligations.AddedPayloadFinalizesToItsChecksum := by
  unfold Obligations.AddedPayloadFinalizesToItsChecksum
  intro p s
  have hsum := issueAll_csReset_csAdd_cs0Sum p s
  refine ⟨hsum, ?_⟩
  rw [answer_csFinalize, hsum, ← cks_eq_csFin_sum8, zext_eq_ofNat]

/-- Settles O26: the checksum is what the sum modulo 256 lacks to 255, and a sum does not depend on the order. -/
theorem sumAndChecksumComplete : Obligations.SumAndChecksumComplete := by
  unfold Obligations.SumAndChecksumComplete
  refine ⟨fun p => ?_, fun p q h => ?_⟩
  · rw [cks_toNat]
    omega
  · rw [cks, cks, payloadSum_perm h]

/-- Settles O27: a byte exchanged for another moves the sum by less than 256, so the old checksum misses 255. -/
theorem verifyAcceptsExactlyTheFinalizedByte : Obligations.VerifyAcceptsExactlyTheFinalizedByte := by
  unfold Obligations.VerifyAcceptsExactlyTheFinalizedByte
  refine ⟨fun sum c => ?_, fun p k y h hy => eq_false_of_ne_true fun hver => ?_⟩
  · rw [csVer_eq_true_iff_eq_csFin, BitVec.ofNat_toNat, BitVec.setWidth_eq]
  · have hnew := (csVer_eq_true _ _).mp hver
    have hset := payloadSum_set p k y h
    have hne : y.toNat ≠ p[k].toNat := fun e => hy (BitVec.eq_of_toNat_eq e)
    have hylt := y.isLt
    have hklt := p[k].isLt
    rw [cks_toNat] at hnew
    omega

/-- Settles O28: the 8-bit engine holds the wide sum modulo 256, which is all that finalize and verify use. -/
theorem wideEngineAgrees : Obligations.WideEngineAgrees := by
  unfold Obligations.WideEngineAgrees
  intro p c
  rw [foldl_csAdd_csZero, sum8_toNat, csVer_mod, ← cks_eq_csFin_sum8]
  refine ⟨rfl, rfl, fun hp => ?_⟩
  calc payloadSum p
    _ ≤ p.length * 0xFF := payloadSum_le p
    _ ≤ 65535 * 0xFF := Nat.mul_le_mul_right 0xFF hp
    _ = 16711425 := rfl

/-- Settles O21: the effect and the word are those of the model, and `0x10` is an `op` code of format `Z`. -/
theorem csResetClearsTheSum : Obligations.CsResetClearsTheSum := by
  unfold Obligations.CsResetClearsTheSum
  refine ⟨fun s => ?_, rfl, fun w s hop => deliverCommand_of_opCodeZ s (by rw [hop]; decide)⟩
  rw [exec_eq_issue, issue_csReset]
  rfl

/-- Settles O22: addition of bytes is addition modulo 256, and `0x11` is an `op` code of format `D`. -/
theorem csAddAddsModulo256 : Obligations.CsAddAddsModulo256 := by
  unfold Obligations.CsAddAddsModulo256
  refine ⟨fun d s => ?_, fun d => ?_, fun w s hop => deliverCommand_of_opCodeD s (by rw [hop]; decide)⟩
  · rw [exec_eq_issue, issue_csAdd, ← csAdd_toNat, BitVec.ofNat_toNat, BitVec.setWidth_eq]
    rfl
  · exact mkWord_toNat 0x11 0 d

/-- Settles O23: the finalized byte is 255 minus the sum, which fits a byte; `0x12` is an `op` code of format `Z`. -/
theorem csFinalizeAnswersTheChecksum : Obligations.CsFinalizeAnswersTheChecksum := by
  unfold Obligations.CsFinalizeAnswersTheChecksum
  refine ⟨fun s => ?_, rfl, fun w s hop => deliverCommand_of_opCodeZ s (by rw [hop]; decide)⟩
  have hdata : (0xFF - s.codec.cs0Sum.toNat % 256) % 256 = (csFin s.codec.cs0Sum).toNat := by
    have hsum := s.codec.cs0Sum.isLt
    rw [csFin_toNat]
    omega
  rw [exec_eq_issue, issue_csFinalize, zext_eq_ofNat, hdata]
  rfl

/-- Settles O24: the verdict is `CSver` of the operands, and `CSver` of a wide sum looks at its low byte. -/
theorem csVerifyAnswersTheVerdict : Obligations.CsVerifyAnswersTheVerdict := by
  unfold Obligations.CsVerifyAnswersTheVerdict
  refine ⟨fun a d s => ?_, fun a d => mkWord_toNat 0x13 a d, fun w s hop => ?_, fun a d => ?_⟩
  · simp only [exec_eq_issue, issue_csVerify, verdict, csVer_eq_true]
    rfl
  · exact deliverCommand_of_decodes s ((decode_eq_ok_iff w _).mpr (encode_csVerify_fields hop))
  · rw [← csVer_eq_true, csVer_eq_true_iff_eq_csFin, BitVec.ofNat_toNat]

end Sys2Proof.Machine
end

section
/-! PROOFS. The EscapeCodec (41_escape.md): the membership test, the transform and the statements of that chapter. -/

namespace Sys2Proof.Machine

/-! ### The membership test (41_escape.md R150, R152) -/

/-- The constant table is four single bits, one at the value of each reserved byte. -/
theorem reservedTable_eq_or_twoPow : Config.reservedTable =
    BitVec.twoPow 256 0x7E ||| BitVec.twoPow 256 0x7D ||| BitVec.twoPow 256 0x11 ||| BitVec.twoPow 256 0x13 := by
  decide

/-- The single bit at the value of `c`, read at the value of `b`. -/
theorem byteBit_eq_true (b c : Byte) : (BitVec.twoPow 256 c.toNat).getLsbD b.toNat = true ↔ b = c := by
  have hc : c.toNat < 256 := c.isLt
  rw [BitVec.getLsbD_twoPow, decide_eq_true hc, Bool.true_and, decide_eq_true_iff, BitVec.toNat_inj, eq_comm]

theorem needsEscape_eq_true (b : Byte) :
    needsEscape b = true ↔ b = 0x7E ∨ b = 0x7D ∨ b = 0x11 ∨ b = 0x13 := by
  simp only [needsEscape, reservedTable_eq_or_twoPow, BitVec.getLsbD_or, Bool.or_eq_true, or_assoc]
  exact or_congr (byteBit_eq_true b 0x7E) <| or_congr (byteBit_eq_true b 0x7D) <|
    or_congr (byteBit_eq_true b 0x11) (byteBit_eq_true b 0x13)

/-- The table says the same as the list of reserved bytes. -/
theorem needsEscape_eq_reserved (b : Byte) : needsEscape b = reserved b := by
  rw [Bool.eq_iff_iff, needsEscape_eq_true, reserved_eq_true]

/-! ### The transform (41_escape.md R151, R156) -/

theorem x20_involutive : Function.Involutive x20 := fun b => by
  rw [x20, x20, BitVec.xor_assoc, BitVec.xor_self, BitVec.xor_zero]

/-- Bit 5 is inverted. -/
theorem x20_getLsbD_five (b : Byte) : (x20 b).getLsbD 5 = !b.getLsbD 5 := by
  have hmask : Config.xmask.getLsbD 5 = true := rfl
  rw [x20, BitVec.getLsbD_xor, hmask, Bool.xor_true]

theorem x20_ne_self (b : Byte) : x20 b ≠ b := fun h =>
  Bool.not_ne_self (b.getLsbD 5) (by rw [← x20_getLsbD_five, h])

/-- The transform takes exactly the reserved bytes to the image set: each member of it is `x20` of its reserved byte. -/
theorem x20_mem_image (b : Byte) : x20 b ∈ [(0x5E : Byte), 0x5D, 0x31, 0x33] ↔ needsEscape b = true := by
  have hback (c : Byte) : x20 b = c ↔ b = x20 c := x20_involutive.eq_iff
  simp only [needsEscape_eq_true, List.mem_cons, List.not_mem_nil, or_false, hback]
  rfl

/-! ### The statements -/

/-- Settles O29: the table has one bit for each reserved byte, and the test reads it. -/
theorem needsEscapeIsTheReservedSet : Obligations.NeedsEscapeIsTheReservedSet := by
  unfold Obligations.NeedsEscapeIsTheReservedSet
  exact ⟨needsEscape_eq_true, by decide, fun b => rfl⟩

/-- Settles O30: the verdict is that of the membership test, and `0x20` is an `op` code of format `D`. -/
theorem escNeedsAnswersMembership : Obligations.EscNeedsAnswersMembership := by
  unfold Obligations.EscNeedsAnswersMembership
  refine ⟨fun d s => ?_, fun d => ?_, fun w s hop => deliverCommand_of_opCodeD s (by rw [hop]; decide)⟩
  · simp only [exec_eq_issue, issue_escNeeds, verdict, needsEscape_eq_true]
    rfl
  · exact mkWord_toNat 0x20 0 d

/-- Settles O31: both operations answer `x20` of the operand, and `0x21` and `0x22` are `op` codes of format `D`. -/
theorem escOutAndEscInAnswerTheTransform : Obligations.EscOutAndEscInAnswerTheTransform := by
  unfold Obligations.EscOutAndEscInAnswerTheTransform
  refine ⟨fun d s => ?_, fun d => ⟨?_, ?_⟩, fun w s hop => deliverCommand_of_opCodeD s ?_⟩
  · rw [exec_eq_issue, exec_eq_issue, issue_escOut, issue_escIn, zext_eq_ofNat]
    exact ⟨rfl, rfl⟩
  · exact mkWord_toNat 0x21 0 d
  · exact mkWord_toNat 0x22 0 d
  · obtain hop | hop := hop <;> (rw [hop]; decide)

/-- Settles O32: inverting bit 5 twice gives the byte back, and the image set holds `x20` of the reserved bytes, none of
which is reserved. -/
theorem transformLaws : Obligations.TransformLaws := by
  unfold Obligations.TransformLaws
  refine ⟨x20_involutive, x20_ne_self, fun b => (x20_mem_image b).symm, fun b hb => ?_, fun b hb => ⟨?_, ?_⟩⟩
  · rw [needsEscape_eq_reserved] at hb ⊢
    exact reserved_xor_of_reserved hb
  · rw [needsEscape_eq_reserved] at hb
    exact stuff1_of_reserved hb
  · exact x20_involutive b

end Sys2Proof.Machine
end

section
/-! PROOFS. What an operation can do to the machine, said once for all operations; and the ways the two sequencers move
(42_encoder.md R177, 43_decoder.md R215). -/

namespace Sys2Proof.Machine

/-! ### What an operation can do -/

/-- What operation `i` can do to the machine, each update with the condition under which it is made: only respond, or
make the one update of its rule (10_state.md R23, 60_exceptions.md R263). -/
inductive Effect (s : State) : Instr → State → Prop
  | respond (i : Instr) (st : Status) (v : Half) : Effect s i (s.respond st v)
  | setSum (i : Instr) (v : Byte) : Effect s i ((s.setCodec { s.codec with cs0Sum := v }).respond .ok 0)
  | setOrder (a : Half) (d : Byte) (henc : s.codec.encState = .idle) (hdec : s.codec.decState = .idle) :
      Effect s (.csrWr a d) ((s.setCodec { s.codec with cfgLenbe := d.getLsbD 0 }).respond .ok 0)
  | store (a : Half) (d : Byte) (henc : s.codec.encState = .idle) :
      Effect s (.txbWr a d) ((s.setCodec (s.codec.writeTx a d)).respond .ok 0)
  | startFrame (n : Half) (henc : s.codec.encState = .idle) :
      Effect s (.encStart n) ((s.setCodec (s.codec.startFrame n)).respond .ok 0)
  | emit (c : Codec) (b : Byte) (hmove : s.codec.encMove = some (c, b)) :
      Effect s .encStep (((s.setCodec c).emit b).respond .ok (zext b))
  | arm (hdec : s.codec.decState = .idle) : Effect s .decStart ((s.setCodec s.codec.armDecoder).respond .ok 0)
  | take (d : Byte) (c : Codec) (r : DecResult) (hmove : s.codec.decMove d = some (c, r)) :
      Effect s (.decByte d) (((s.setCodec c).consume d).respond .ok (resultData r))
  | timeout (hdec : s.codec.decState ≠ .idle) :
      Effect s .decTimeout ((s.setCodec (s.codec.endInError .timeout)).respond .ok (resultData .timeout))

theorem Effect.refuse (s : State) (i : Instr) (st : Status) : Effect s i (s.refuse st) := .respond i st 0

/-- No operation does anything else: the split is each operation's own refusals. -/
theorem issue_effect (i : Instr) (s : State) : Effect s i (issue i s) := by
  cases i with
  | csReset | csAdd => exact .setSum _ _
  | csFinalize | csVerify | escNeeds | escOut | escIn | txbRd => exact .respond _ _ _
  | encStart n =>
    rw [issue_encStart]
    split
    · exact .refuse s _ _
    · exact .startFrame n (by simp_all)
  | encStep =>
    rw [issue_encStep]
    split
    · exact .refuse s _ _
    · next hmove => exact .emit _ _ hmove
  | decStart =>
    rw [issue_decStart]
    split
    · exact .refuse s _ _
    · exact .arm (by simp_all)
  | decByte d =>
    rw [issue_decByte]
    split
    · exact .refuse s _ _
    · next hmove => exact .take d _ _ hmove
  | decTimeout =>
    rw [issue_decTimeout]
    split
    · exact .timeout (by simp_all)
    · exact .refuse s _ _
  | txbWr a d =>
    rw [issue_txbWr]
    split
    · exact .refuse s _ _
    · exact .store a d (by simp_all)
  | rxbRd a =>
    rw [issue_rxbRd]
    split
    · exact .respond _ _ _
    · exact .refuse s _ _
  | csrRd a =>
    rw [issue_csrRd]
    split
    · exact .refuse s _ _
    · exact .respond _ _ _
  | csrWr a d =>
    rw [issue_csrWr]
    split_ifs
    case neg => exact .setOrder a d (by simp_all) (by simp_all)
    all_goals exact .refuse s _ _

/-- Only `ENC.STEP` puts a byte on the transmit wire. -/
theorem issue_txWire {i : Instr} (s : State) (h : i ≠ .encStep) : (issue i s).txWire = s.txWire := by
  have heffect := issue_effect i s
  generalize issue i s = t at heffect ⊢
  cases heffect with
  | emit => exact absurd rfl h
  | _ => rfl

/-- Only `DEC.BYTE` takes a byte off the receive wire. -/
theorem issue_rxWire {i : Instr} (s : State) (h : ∀ d, i ≠ .decByte d) : (issue i s).rxWire = s.rxWire := by
  have heffect := issue_effect i s
  generalize issue i s = t at heffect ⊢
  cases heffect with
  | take d => exact absurd rfl (h d)
  | _ => rfl

/-! ### The edges of the two transition tables -/

/-- Where the encoder goes after a length or payload byte: to the checksum or to the next payload byte. -/
theorem Codec.encAfter_eq_csum_or_data (c : Codec) (count : Nat) :
    c.encAfter count = .csum ∨ c.encAfter count = .data := by
  unfold Codec.encAfter
  split
  · exact .inl rfl
  · exact .inr rfl

/-- Where the decoder goes after a payload byte. -/
theorem Codec.append_decState_eq_csum_or_data (c : Codec) (v : Byte) :
    (c.append v).decState = .csum ∨ (c.append v).decState = .data := by
  rw [Codec.append_decState]
  split
  · exact .inl rfl
  · exact .inr rfl

/-- A move of the encoder to another state is an edge of its table (42_encoder.md R177). -/
theorem Codec.encMove_edge {c c' : Codec} {b : Byte} (h : c.encMove = some (c', b)) (hne : c'.encState ≠ c.encState) :
    (c.encState, c'.encState) ∈
      [(.delim, .len0), (.len0, .len1), (.len1, .csum), (.len1, .data), (.data, .esc), (.data, .csum), (.esc, .data),
        (.esc, .csum), ((.csum : EncState), (.idle : EncState))] := by
  rcases c.encMove_cases c' b h with ⟨hs, -, rfl⟩ | ⟨hs, -, rfl⟩ | ⟨hs, -, rfl⟩ | ⟨hs, -, -, rfl⟩ | ⟨hs, -, -, rfl⟩ |
    ⟨hs, -, rfl⟩ | ⟨hs, -, rfl⟩
  · simp [hs]
  · simp [hs]
  · rcases c.encAfter_eq_csum_or_data 0 with ha | ha <;> simp [hs, ha]
  · simp [hs]
  · rcases c.encAfter_eq_csum_or_data (c.encCnt.toNat + 1) with ha | ha
    · simp [hs, ha]
    · exact absurd (ha.trans hs.symm) hne
  · rcases c.encAfter_eq_csum_or_data c.encCnt.toNat with ha | ha <;> simp [hs, ha]
  · simp [hs]

/-- A move of the decoder to another state is an edge of its table (43_decoder.md R215). -/
theorem Codec.decMove_edge {c c' : Codec} {d : Byte} {r : DecResult} (h : c.decMove d = some (c', r))
    (hne : c'.decState ≠ c.decState) :
    (c.decState, c'.decState) ∈
      [(.delim, .len0), (.delim, .idle), (.len0, .len1), (.len1, .csum), (.len1, .data), (.data, .esc),
        (.data, .csum), (.esc, .data), (.esc, .csum), ((.csum : DecState), (.idle : DecState))] := by
  rcases c.decMove_cases c' d r h with ⟨hs, -, -, rfl⟩ | ⟨hs, -, -, rfl⟩ | ⟨hs, -, rfl⟩ | ⟨hs, -, rfl⟩ |
    ⟨hs, -, -, rfl⟩ | ⟨hs, -, -, rfl⟩ | ⟨hs, -, rfl⟩ | ⟨hs, -, -, rfl⟩ | ⟨hs, -, -, rfl⟩
  · simp [hs]
  · simp [hs]
  · simp [hs]
  · simp only [hs]
    split <;> simp
  · simp [hs]
  · rcases c.append_decState_eq_csum_or_data d with ha | ha
    · simp only [hs, ha]
      simp
    · exact absurd (ha.trans hs.symm) hne
  · rcases c.append_decState_eq_csum_or_data (x20 d) with ha | ha <;> (simp only [hs, ha]; simp)
  · simp [hs]
  · simp [hs]

/-! ### The statement -/

/-- Settles O47: of all effects only `ENC.START` and the encoder's move write `ENC.state`, and only `DEC.START`, the
decoder's move and `DEC.TIMEOUT` write `DEC.state`. -/
theorem sequencersMoveOnlyByTheirTables : Obligations.SequencersMoveOnlyByTheirTables := by
  unfold Obligations.SequencersMoveOnlyByTheirTables
  intro i s t hexec
  obtain rfl : issue i s = t := by simpa [exec_eq_issue] using hexec
  have heffect := issue_effect i s
  generalize issue i s = t at heffect ⊢
  cases heffect with
  | respond | setSum | setOrder | store => exact ⟨fun hne => absurd rfl hne, fun hne => absurd rfl hne⟩
  | startFrame n henc => exact ⟨fun _ => .inl ⟨⟨n, rfl⟩, henc, rfl⟩, fun hne => absurd rfl hne⟩
  | emit c b hmove =>
    have hframe := Codec.encMove_frame _ _ _ hmove
    exact ⟨fun hne => .inr ⟨rfl, Codec.encMove_edge hmove hne⟩, fun hne => absurd (by simp [hframe]) hne⟩
  | arm hdec => exact ⟨fun hne => absurd rfl hne, fun _ => .inl ⟨rfl, hdec, rfl⟩⟩
  | take d c r hmove =>
    have hframe := Codec.decMove_frame _ _ _ _ hmove
    exact ⟨fun hne => absurd (by simp [hframe]) hne, fun hne => .inr (.inl ⟨⟨d, rfl⟩, Codec.decMove_edge hmove hne⟩)⟩
  | timeout hdec => exact ⟨fun hne => absurd rfl hne, fun _ => .inr (.inr ⟨rfl, hdec, rfl⟩)⟩

end Sys2Proof.Machine
end

section
/-! PROOFS. The invariant of a run from reset (42_encoder.md R184, 43_decoder.md R221): reset meets it, and every update
an operation can make keeps it. -/

namespace Sys2Proof.Machine

/-! ### The encoder -/

/-- The encoder's invariant speaks of what the encoder owns and of nothing else. -/
theorem EncoderInv.congr {c c' : Codec} (h : EncoderInv c) (hsame : ∀ f ∈ encoderFields, f.same c c') :
    EncoderInv c' := by
  simp only [encoderFields, List.forall_mem_cons, Field.same] at hsame
  obtain ⟨hstate, hlen, hcnt, hsum, hhold, hbuf, -⟩ := hsame
  have hpayload (n : Nat) : c'.txPayload n = c.txPayload n := Codec.txPayload_congr _ _ n fun i _ => (hbuf _).symm
  constructor
  · simpa only [hlen, hcnt] using h.count_le_length
  · simpa only [hstate, hcnt, hsum] using h.header
  · simpa only [hstate, hlen, hcnt] using h.data
  · simpa only [hstate, hcnt, hhold, hbuf] using h.escape
  · simpa only [hstate, hlen, hcnt] using h.checksum
  · simpa only [Codec.encBusy, hstate, hcnt, hsum, hpayload] using h.sum

/-- An update outside what the encoder owns keeps its invariant. -/
theorem EncoderInv.of_changesOnly {c c' : Codec} {fs : List Field} (h : EncoderInv c) (hch : c.ChangesOnly fs c')
    (hfs : ∀ f ∈ encoderFields, f ∉ fs) : EncoderInv c' :=
  h.congr fun f hf => hch f (hfs f hf)

/-- An idle encoder holds no claim but that of its counts. -/
theorem EncoderInv.of_idle {c : Codec} (hstate : c.encState = .idle) (hcnt : c.encCnt.toNat ≤ c.encLen.toNat) :
    EncoderInv c := by
  constructor <;> simp [hstate, hcnt]

theorem encoderInv_startFrame (c : Codec) (n : Half) : EncoderInv (c.startFrame n) := by
  constructor <;> simp [Codec.txPayload, sum8, payloadSum]

/-- Between two logical bytes the encoder's state follows from its counts. -/
theorem EncoderInv.of_encAfter {c : Codec} (hstate : c.encState = c.encAfter c.encCnt.toNat)
    (hcnt : c.encCnt.toNat ≤ c.encLen.toNat) (hsum : c.txcsSum = sum8 (c.txPayload c.encCnt.toNat)) :
    EncoderInv c := by
  unfold Codec.encAfter at hstate
  split at hstate
  next hend => constructor <;> simp [hstate, hsum, BitVec.eq_of_toNat_eq hend]
  next hmore => constructor <;> simp [hstate, hcnt, hsum, Nat.lt_of_le_of_ne hcnt hmore]

/-- A count below a 16-bit length does not wrap around. -/
theorem toNat_succ_of_lt {cnt len : Half} (h : cnt.toNat < len.toNat) : (cnt + 1).toNat = cnt.toNat + 1 := by
  have hlen := len.isLt
  have hone : (1 : Half).toNat = 1 := rfl
  rw [BitVec.toNat_add, hone]
  omega

/-- The sum after the byte at the count has been added (42_encoder.md R184 (f)). -/
theorem Codec.csAdd_sum8_txPayload (c : Codec) :
    csAdd (sum8 (c.txPayload c.encCnt.toNat)) (c.readTx c.encCnt) = sum8 (c.txPayload (c.encCnt.toNat + 1)) := by
  rw [Codec.txPayload_succ, sum8_append_byte, BitVec.ofNat_toNat, BitVec.setWidth_eq]

theorem EncoderInv.txcsSum_of_busy {c : Codec} (h : EncoderInv c) (hbusy : c.encState ≠ .idle) :
    c.txcsSum = sum8 (c.txPayload c.encCnt.toNat) :=
  h.sum (c.encBusy_eq_true.mpr hbusy)

/-- The encoder's move keeps its invariant, by the edges of its table. -/
theorem EncoderInv.encMove {c c' : Codec} {b : Byte} (h : EncoderInv c) (hmove : c.encMove = some (c', b)) :
    EncoderInv c' := by
  have hsum := h.txcsSum_of_busy (c := c)
  rcases c.encMove_cases c' b hmove with ⟨hs, -, rfl⟩ | ⟨hs, -, rfl⟩ | ⟨hs, -, rfl⟩ | ⟨hs, hb, -, rfl⟩ |
    ⟨hs, -, -, rfl⟩ | ⟨hs, -, rfl⟩ | ⟨hs, -, rfl⟩
  · have hheader := h.header (.inl hs)
    constructor <;> simp [hheader, Codec.txPayload, sum8, payloadSum]
  · have hheader := h.header (.inr (.inl hs))
    constructor <;> simp [hheader, Codec.txPayload, sum8, payloadSum]
  · obtain ⟨hcnt, -⟩ := h.header (.inr (.inr hs))
    refine .of_encAfter ?_ h.count_le_length (hsum (by simp [hs]))
    simp only [hcnt]
    rfl
  · have hlt := h.data hs
    have hcnt := toNat_succ_of_lt hlt
    constructor
    case count_le_length => exact hcnt.trans_le hlt
    case escape =>
      intro _
      refine ⟨?_, ?_, hb⟩
      · simp only [hcnt]
        omega
      · simp only [BitVec.add_sub_cancel]
        rfl
    case sum =>
      intro _
      simp only [hcnt, hsum (by simp [hs])]
      exact c.csAdd_sum8_txPayload
    all_goals simp
  · have hlt := h.data hs
    have hcnt := toNat_succ_of_lt hlt
    refine .of_encAfter ?_ ?_ ?_
    · simp only [hcnt]
      rfl
    · exact hcnt.trans_le hlt
    · simp only [hcnt, hsum (by simp [hs])]
      exact c.csAdd_sum8_txPayload
  · exact .of_encAfter rfl h.count_le_length (hsum (by simp [hs]))
  · exact .of_idle rfl h.count_le_length

theorem encoderInv_applyReset (c : Codec) : EncoderInv c.applyReset := .of_idle rfl (Nat.le_refl 0)

/-! ### The decoder -/

/-- No decode has ended since the decoder was armed or reset: the outcome registers are clear
(43_decoder.md R221 (g)). -/
def Codec.NoOutcome (c : Codec) : Prop :=
  c.decResult = .none ∧ c.decExpected = 0 ∧ c.decReceived = 0 ∧ c.decEstate = .idle

theorem DecoderInv.noOutcome {c : Codec} (h : DecoderInv c) (hbusy : c.decState ≠ .idle) : c.NoOutcome :=
  h.armed (c.decBusy_eq_true.mpr hbusy)

/-- Without an outcome the invariant is what it says of the counts, the sum and the buffer. -/
theorem DecoderInv.of_noOutcome {c : Codec} (h : c.NoOutcome) (hcnt : c.decCnt.toNat ≤ c.decLen.toNat)
    (hheader : c.decState = .delim ∨ c.decState = .len0 → c.decLen = 0 ∧ c.decCnt = 0 ∧ c.rxcsSum = 0)
    (hhalf : c.decState = .len1 → c.decCnt = 0 ∧ c.rxcsSum = 0 ∧
      (if c.cfgLenbe then lowByte c.decLen = 0 else highByte c.decLen = 0))
    (hpayload : c.decState = .data ∨ c.decState = .esc → c.decCnt.toNat < c.decLen.toNat)
    (hchecksum : c.decState = .csum → c.decCnt = c.decLen)
    (hsum : c.rxcsSum = sum8 (c.rxPayload c.decCnt.toNat))
    (hwritten : ∀ i, i < c.decCnt.toNat → (c.rxbuf.lookup i).isSome = true) : DecoderInv c := by
  have harmed := h
  obtain ⟨hnone, -, -, hestate⟩ := h
  exact {
    count_le_length := hcnt
    header := hheader
    half_length := hhalf
    payload := hpayload
    checksum := hchecksum
    sum := hsum
    armed := fun _ => harmed
    success := by simp [hnone]
    no_outcome := fun _ => hestate
    framing := by simp [hnone]
    checksum_error := by simp [hnone]
    timeout := by simp [hnone]
    written := hwritten }

/-- The decoder as it is after reset and after `DEC.START`: every register clear, idle or at the delimiter. -/
theorem DecoderInv.of_cleared {c : Codec} (h : c.NoOutcome)
    (hclear : c.decLen = 0 ∧ c.decCnt = 0 ∧ c.rxcsSum = 0) (hstate : c.decState = .idle ∨ c.decState = .delim) :
    DecoderInv c := by
  obtain ⟨hlen, hcnt, hsum⟩ := hclear
  apply DecoderInv.of_noOutcome h <;> rcases hstate with hs | hs <;>
    simp [hs, hlen, hcnt, hsum, Codec.rxPayload, sum8, payloadSum]

theorem decoderInv_armDecoder (c : Codec) : DecoderInv c.armDecoder :=
  .of_cleared ⟨rfl, rfl, rfl, rfl⟩ ⟨rfl, rfl, rfl⟩ (.inr rfl)

theorem decoderInv_applyReset (c : Codec) : DecoderInv c.applyReset :=
  .of_cleared ⟨rfl, rfl, rfl, rfl⟩ ⟨rfl, rfl, rfl⟩ (.inl rfl)

/-- The decoder's invariant speaks of `CFG`, of what the decoder owns, and of which locations of `RXBUF` are written. -/
theorem DecoderInv.congr {c c' : Codec} (h : DecoderInv c) (hsame : ∀ f ∈ .cfg :: decoderFields, f.same c c')
    (hwritten : c'.rxbuf = c.rxbuf) : DecoderInv c' := by
  simp only [decoderFields, List.forall_mem_cons, Field.same] at hsame
  obtain ⟨hcfg, hstate, hlen, hcnt, hsum, hresult, ⟨hexpected, hreceived⟩, hestate, hbuf, -⟩ := hsame
  have hpayload (n : Nat) : c'.rxPayload n = c.rxPayload n := Codec.rxPayload_congr _ _ n fun i _ => (hbuf _).symm
  constructor
  · simpa only [hlen, hcnt] using h.count_le_length
  · simpa only [hstate, hlen, hcnt, hsum] using h.header
  · simpa only [hcfg, hstate, hlen, hcnt, hsum] using h.half_length
  · simpa only [hstate, hlen, hcnt] using h.payload
  · simpa only [hstate, hlen, hcnt] using h.checksum
  · simpa only [hcnt, hsum, hpayload] using h.sum
  · simpa only [Codec.decBusy, hstate, hresult, hexpected, hreceived, hestate] using h.armed
  · simpa only [hlen, hcnt, hsum, hresult, hexpected, hreceived, hestate] using h.success
  · simpa only [hresult, hestate] using h.no_outcome
  · simpa only [hlen, hresult, hexpected, hreceived, hestate] using h.framing
  · simpa only [hlen, hcnt, hsum, hresult, hexpected, hreceived, hestate] using h.checksum_error
  · simpa only [hresult, hexpected, hreceived, hestate] using h.timeout
  · simpa only [hcnt, hwritten] using h.written

theorem DecoderInv.of_changesOnly {c c' : Codec} {fs : List Field} (h : DecoderInv c) (hch : c.ChangesOnly fs c')
    (hfs : ∀ f ∈ .cfg :: decoderFields, f ∉ fs) (hwritten : c'.rxbuf = c.rxbuf) : DecoderInv c' :=
  h.congr (fun f hf => hch f (hfs f hf)) hwritten

/-- The byte order binds the decoder only in the middle of a frame. -/
theorem DecoderInv.setOrder {c : Codec} (h : DecoderInv c) (hidle : c.decState = .idle) (o : Bool) :
    DecoderInv { c with cfgLenbe := o } :=
  { h with half_length := by simp [hidle] }

/-- Half of the length register stays clear until the second length byte. -/
theorem half_lenAfterFirst_eq_zero (o : Bool) (d : Byte) :
    if o then lowByte (lenAfterFirst o d) = 0 else highByte (lenAfterFirst o d) = 0 := by
  cases o
  · exact BitVec.extractLsb'_append_eq_left
  · exact BitVec.extractLsb'_append_eq_right

/-- Between two logical bytes the decoder's state follows from its counts. -/
theorem DecoderInv.of_betweenBytes {c : Codec} (hnone : c.NoOutcome)
    (hstate : c.decState = if c.decCnt.toNat = c.decLen.toNat then .csum else .data)
    (hcnt : c.decCnt.toNat ≤ c.decLen.toNat) (hsum : c.rxcsSum = sum8 (c.rxPayload c.decCnt.toNat))
    (hwritten : ∀ i, i < c.decCnt.toNat → (c.rxbuf.lookup i).isSome = true) : DecoderInv c := by
  split at hstate
  next hend =>
    apply DecoderInv.of_noOutcome hnone hcnt (hsum := hsum) (hwritten := hwritten) <;>
      simp [hstate, BitVec.eq_of_toNat_eq hend]
  next hmore =>
    apply DecoderInv.of_noOutcome hnone hcnt (hsum := hsum) (hwritten := hwritten) <;>
      simp [hstate, Nat.lt_of_le_of_ne hcnt hmore]

/-- A payload byte taken: one more location written and counted (43_decoder.md R212). -/
theorem DecoderInv.append {c : Codec} (h : DecoderInv c) (hstate : c.decState = .data ∨ c.decState = .esc) (v : Byte) :
    DecoderInv (c.append v) := by
  have hlt := h.payload hstate
  have hcnt := toNat_succ_of_lt hlt
  have hbusy : c.decState ≠ .idle := by rcases hstate with hs | hs <;> simp [hs]
  have hnone : (c.append v).NoOutcome := h.noOutcome hbusy
  apply DecoderInv.of_betweenBytes hnone <;> rw [Codec.append_decCnt, hcnt]
  case hstate => rfl
  case hcnt => exact hlt
  case hsum => rw [Codec.rxPayload_append, sum8_append_byte, ← h.sum, Codec.append_rxcsSum]
  case hwritten =>
    intro i hi
    rw [Codec.append_rxbuf, Memory.lookup_write]
    split
    · rfl
    · exact h.written i (by omega)

/-- A decode that ends in an error keeps its counts and sum (60_exceptions.md R265). -/
theorem DecoderInv.timeout_endInError {c : Codec} (h : DecoderInv c) (hbusy : c.decState ≠ .idle) :
    DecoderInv (c.endInError .timeout) := by
  obtain ⟨-, hexpected, hreceived, -⟩ := h.noOutcome hbusy
  constructor <;> simp [hexpected, hreceived, hbusy]
  case count_le_length => exact h.count_le_length
  case sum => exact h.sum
  case written => exact h.written

/-- An 8-bit sum is verified by its own finalized byte and by no other (40_checksum.md R140). -/
theorem csVer_sum_eq_true_iff (sum d : Byte) : csVer sum.toNat d = true ↔ d = csFin sum := by
  rw [csVer_eq_true_iff_eq_csFin, BitVec.ofNat_toNat, BitVec.setWidth_eq]

/-- The decoder's move keeps its invariant, by the edges of its table. -/
theorem DecoderInv.decMove {c c' : Codec} {d : Byte} {r : DecResult} (h : DecoderInv c)
    (hmove : c.decMove d = some (c', r)) : DecoderInv c' := by
  have hbusy : c.decState ≠ .idle := fun hidle => by
    simp [(c.decMove_eq_none d).mpr hidle] at hmove
  have hnone := h.noOutcome hbusy
  rcases c.decMove_cases c' d r hmove with ⟨hs, -, -, rfl⟩ | ⟨hs, -, -, rfl⟩ | ⟨hs, -, rfl⟩ | ⟨hs, -, rfl⟩ |
    ⟨hs, -, -, rfl⟩ | ⟨hs, -, -, rfl⟩ | ⟨hs, -, rfl⟩ | ⟨hs, hver, -, rfl⟩ | ⟨hs, hver, -, rfl⟩
  · have hheader := h.header (.inl hs)
    exact .of_noOutcome hnone h.count_le_length (fun _ => hheader) nofun nofun nofun h.sum h.written
  · obtain ⟨hlen, -⟩ := h.header (.inl hs)
    obtain ⟨-, hexpected, hreceived, -⟩ := hnone
    constructor <;> simp [hs, hlen, hexpected, hreceived]
    case count_le_length => simpa [hlen] using h.count_le_length
    case sum => exact h.sum
    case written => exact h.written
  · obtain ⟨-, hcnt, hsum⟩ := h.header (.inr hs)
    exact .of_noOutcome hnone (by simp [hcnt]) nofun (fun _ => ⟨hcnt, hsum, half_lenAfterFirst_eq_zero _ d⟩) nofun nofun
      h.sum h.written
  · obtain ⟨hcnt, -⟩ := h.half_length hs
    refine .of_betweenBytes hnone ?_ (by simp [hcnt]) h.sum h.written
    simp [hcnt, eq_comm, ← BitVec.toNat_inj]
  · have hlt := h.payload (.inl hs)
    exact .of_noOutcome hnone h.count_le_length nofun nofun (fun _ => hlt) nofun h.sum h.written
  · exact h.append (.inl hs) d
  · exact h.append (.inr hs) _
  · obtain ⟨-, -, -, hestate⟩ := hnone
    have hgood := (csVer_sum_eq_true_iff _ _).mp hver
    constructor <;> simp [hestate, h.checksum hs, hgood]
    case sum => exact h.checksum hs ▸ h.sum
    case written => exact h.checksum hs ▸ h.written
  · have hbad : csFin c.rxcsSum ≠ d := fun heq =>
      ne_true_of_eq_false hver ((csVer_sum_eq_true_iff _ _).mpr heq.symm)
    constructor <;> simp [h.checksum hs, hbad]
    case sum => exact h.checksum hs ▸ h.sum
    case written => exact h.checksum hs ▸ h.written

/-- The buffer the decoder's move leaves is in canonical form: it stores at most one byte. -/
theorem Codec.decMove_rxbuf_wf {c c' : Codec} {d : Byte} {r : DecResult} (h : c.rxbuf.wf)
    (hmove : c.decMove d = some (c', r)) : c'.rxbuf.wf := by
  rcases c.decMove_cases c' d r hmove with ⟨-, -, -, rfl⟩ | ⟨-, -, -, rfl⟩ | ⟨-, -, rfl⟩ | ⟨-, -, rfl⟩ |
    ⟨-, -, -, rfl⟩ | ⟨-, -, -, rfl⟩ | ⟨-, -, rfl⟩ | ⟨-, -, -, rfl⟩ | ⟨-, -, -, rfl⟩
  exacts [h, h, h, h, h, Memory.write_wf _ _ _ h, Memory.write_wf _ _ _ h, h, h]

/-! ### Every update of the block -/

theorem Codec.Inv.applyReset {c : Codec} (htx : c.txbuf.wf) (hrx : c.rxbuf.wf) : c.applyReset.Inv :=
  ⟨htx, hrx, encoderInv_applyReset c, decoderInv_applyReset c⟩

theorem Codec.Inv.setSum {c : Codec} (h : c.Inv) (v : Byte) : Codec.Inv { c with cs0Sum := v } where
  txbuf := h.txbuf
  rxbuf := h.rxbuf
  encoder := h.encoder.of_changesOnly (c.changesOnly_cs0Sum v) (by decide)
  decoder := h.decoder.of_changesOnly (c.changesOnly_cs0Sum v) (by decide) rfl

theorem Codec.Inv.setOrder {c : Codec} (h : c.Inv) (hidle : c.decState = .idle) (o : Bool) :
    Codec.Inv { c with cfgLenbe := o } where
  txbuf := h.txbuf
  rxbuf := h.rxbuf
  encoder := h.encoder.of_changesOnly (c.changesOnly_cfgLenbe o) (by decide)
  decoder := h.decoder.setOrder hidle o

theorem Codec.Inv.writeTx {c : Codec} (h : c.Inv) (hidle : c.encState = .idle) (a : Half) (v : Byte) :
    (c.writeTx a v).Inv where
  txbuf := Memory.write_wf _ a v h.txbuf
  rxbuf := h.rxbuf
  encoder := .of_idle hidle h.encoder.count_le_length
  decoder := h.decoder.of_changesOnly (c.changesOnly_writeTx a v) (by decide) rfl

theorem Codec.Inv.startFrame {c : Codec} (h : c.Inv) (n : Half) : (c.startFrame n).Inv where
  txbuf := h.txbuf
  rxbuf := h.rxbuf
  encoder := encoderInv_startFrame c n
  decoder := h.decoder.of_changesOnly (c.changesOnly_startFrame n) (by decide) rfl

theorem Codec.Inv.encMove {c c' : Codec} {b : Byte} (h : c.Inv) (hmove : c.encMove = some (c', b)) : c'.Inv := by
  have hframe := Codec.encMove_frame c c' b hmove
  have hrx : c'.rxbuf = c.rxbuf := by simp [hframe]
  have htx : c'.txbuf = c.txbuf := by simp [hframe]
  exact ⟨htx ▸ h.txbuf, hrx ▸ h.rxbuf, h.encoder.encMove hmove,
    h.decoder.of_changesOnly (Codec.changesOnly_of_encMove hmove) (by decide) hrx⟩

theorem Codec.Inv.armDecoder {c : Codec} (h : c.Inv) : c.armDecoder.Inv where
  txbuf := h.txbuf
  rxbuf := h.rxbuf
  encoder := h.encoder.of_changesOnly c.changesOnly_armDecoder (by decide)
  decoder := decoderInv_armDecoder c

theorem Codec.Inv.decMove {c c' : Codec} {d : Byte} {r : DecResult} (h : c.Inv)
    (hmove : c.decMove d = some (c', r)) : c'.Inv := by
  have hframe := Codec.decMove_frame c c' d r hmove
  have htx : c'.txbuf = c.txbuf := by simp [hframe]
  exact ⟨htx ▸ h.txbuf, Codec.decMove_rxbuf_wf h.rxbuf hmove,
    h.encoder.of_changesOnly (Codec.changesOnly_of_decMove hmove) (by decide), h.decoder.decMove hmove⟩

theorem Codec.Inv.timeout_endInError {c : Codec} (h : c.Inv) (hbusy : c.decState ≠ .idle) :
    (c.endInError .timeout).Inv where
  txbuf := h.txbuf
  rxbuf := h.rxbuf
  encoder := h.encoder.of_changesOnly (c.changesOnly_endInError .timeout) (by decide)
  decoder := h.decoder.timeout_endInError hbusy

/-- Every operation keeps the invariant: it makes no update but those above. -/
theorem Codec.Inv.issue {s : State} (h : s.codec.Inv) (i : Instr) : (issue i s).codec.Inv := by
  have heffect := issue_effect i s
  generalize Machine.issue i s = t at heffect ⊢
  cases heffect with
  | respond => exact h
  | setSum i v => exact h.setSum v
  | setOrder a d henc hdec => exact h.setOrder hdec _
  | store a d henc => exact h.writeTx henc a d
  | startFrame n henc => exact h.startFrame n
  | emit c b hmove => exact h.encMove hmove
  | arm hdec => exact h.armDecoder
  | take d c r hmove => exact h.decMove hmove
  | timeout hdec => exact h.timeout_endInError hdec

/-- Every event of the port keeps the invariant, reset and illegal words included. -/
theorem Codec.Inv.receive {s : State} (h : s.codec.Inv) (e : PortEvent) : (receive e s).codec.Inv := by
  cases e with
  | reset => exact .applyReset h.txbuf h.rxbuf
  | command w =>
    cases hd : decode w with
    | ok i =>
      rw [receive_command_of_decodes w i s hd]
      exact h.issue i
    | error e =>
      rw [receive_command_of_illegal w e s hd]
      exact h

/-! ### The statements -/

/-- Settles O18: the state after reset is what reset makes of it. -/
theorem resetMeetsTheInvariant : Obligations.ResetMeetsTheInvariant := by
  unfold Obligations.ResetMeetsTheInvariant
  obtain ⟨htx, hrx⟩ := Codec.reset_wf
  exact Codec.Inv.applyReset htx hrx

/-- Settles O19: a step is the oldest event received, or nothing. -/
theorem everyStepKeepsTheInvariant : Obligations.EveryStepKeepsTheInvariant := by
  unfold Obligations.EveryStepKeepsTheInvariant
  intro s t h hstep
  cases hp : s.pending with
  | nil =>
    obtain rfl : s = t := by simpa [step_of_nothing_pending s hp] using hstep
    exact h
  | cons e rest =>
    rw [step_eq_receive s e rest hp] at hstep
    cases hstep
    exact Codec.Inv.receive (s := { s with pending := rest }) h e

end Sys2Proof.Machine
end

section
/-! PROOFS. The FrameEncoder (42_encoder.md), one operation at a time: the effect of `ENC.START`, the encoder's move
state by state, and the statements of R175 and R176. -/

namespace Sys2Proof.Machine

/-! ### One step (42_encoder.md R175, R176) -/

theorem issue_encStart_of_idle {s : State} (n : Half) (h : s.codec.encState = .idle) :
    issue (.encStart n) s = performed s (s.codec.startFrame n) 0 := by
  rw [issue_encStart, if_neg (by simp [h])]
  rfl

theorem issue_encStart_of_busy {s : State} (n : Half) (h : s.codec.encState ≠ .idle) :
    issue (.encStart n) s = refused s .errBusy := by
  rw [issue_encStart, if_pos (by simp [h])]
  rfl

theorem issue_encStep_of_idle {s : State} (h : s.codec.encState = .idle) :
    issue .encStep s = refused s .errIdle := by
  rw [issue_encStep, (s.codec.encMove_eq_none).mpr h]
  rfl

theorem issue_encStep_of_encMove {s : State} {c : Codec} {b : Byte} (h : s.codec.encMove = some (c, b)) :
    issue .encStep s = emitted s c b := by
  rw [issue_encStep, h]
  simp only [zext_eq_ofNat]
  rfl

theorem exec_encStep_of_encMove {s : State} {c : Codec} {b : Byte} (h : s.codec.encMove = some (c, b)) :
    exec .encStep s = .next (emitted s c b) := by
  rw [exec_eq_issue, issue_encStep_of_encMove h]

theorem exists_encMove {c : Codec} (h : c.encState ≠ .idle) : ∃ c' b, c.encMove = some (c', b) := by
  obtain ⟨⟨c', b⟩, hmove⟩ := Option.ne_none_iff_exists'.mp (mt (c.encMove_eq_none).mp h)
  exact ⟨c', b, hmove⟩

/-- `ENC.STEP` is answered `OK` just where a frame is in progress. -/
theorem answer_encStep_status (s : State) :
    (answer .encStep s).status = if s.codec.encState = .idle then .errIdle else .ok := by
  rw [answer_encStep]
  split
  next hidle => simp [(s.codec.encMove_eq_none).mpr hidle]
  next hbusy =>
    obtain ⟨c', b, hmove⟩ := exists_encMove hbusy
    simp [hmove]

/-! ### Length bytes, sums and counts as numbers -/

/-- The low byte of a length as a number. -/
theorem lowByte_eq_ofNat (n : Half) : lowByte n = BitVec.ofNat 8 (n.toNat % 256) := by
  apply BitVec.eq_of_toNat_eq
  simp [lowByte, BitVec.extractLsb'_toNat]

/-- The high byte of a length as a number. -/
theorem highByte_eq_ofNat (n : Half) : highByte n = BitVec.ofNat 8 (n.toNat / 256) := by
  apply BitVec.eq_of_toNat_eq
  simp [highByte, BitVec.extractLsb'_toNat, Nat.shiftRight_eq_div_pow]

theorem lenFirst_eq_ofNat (o : Bool) (n : Half) :
    lenFirst o n = BitVec.ofNat 8 (if o then n.toNat / 256 else n.toNat % 256) := by
  cases o
  · exact lowByte_eq_ofNat n
  · exact highByte_eq_ofNat n

theorem lenSecond_eq_ofNat (o : Bool) (n : Half) :
    lenSecond o n = BitVec.ofNat 8 (if o then n.toNat % 256 else n.toNat / 256) := by
  cases o
  · exact highByte_eq_ofNat n
  · exact lowByte_eq_ofNat n

theorem csAdd_eq_ofNat (sum b : Byte) : csAdd sum b = BitVec.ofNat 8 ((sum.toNat + b.toNat) % 256) := by
  rw [← csAdd_toNat, BitVec.ofNat_toNat, BitVec.setWidth_eq]

theorem csFin_eq_ofNat (sum : Byte) : csFin sum = BitVec.ofNat 8 (0xFF - sum.toNat) := by
  rw [← csFin_toNat, BitVec.ofNat_toNat, BitVec.setWidth_eq]

theorem succ_eq_ofNat (n : Half) : n + 1 = BitVec.ofNat 16 (n.toNat + 1) := by
  rw [BitVec.ofNat_add, BitVec.ofNat_toNat, BitVec.setWidth_eq]
  rfl

/-- The two length bytes the encoder emits are those of the frame (30_encoding.md R91). -/
theorem lenBytes_toNat (n : Half) (o : Bool) : lenBytes n.toNat o = [lenFirst o n, lenSecond o n] := by
  have hlow : BitVec.ofNat 8 n.toNat = lowByte n := by
    apply BitVec.eq_of_toNat_eq
    simp [lowByte_eq_ofNat]
  cases o <;> simp [lenBytes, lenFirst, lenSecond, hlow, highByte_eq_ofNat]

/-! ### The encoder's move, state by state (42_encoder.md R177) -/

theorem Codec.encMove_of_delim {c : Codec} (h : c.encState = .delim) :
    c.encMove = some ({ c with encState := .len0 }, 0x7E) := by
  rw [Codec.encMove, h]
  rfl

theorem Codec.encMove_of_len0 {c : Codec} (h : c.encState = .len0) :
    c.encMove = some ({ c with encState := .len1 }, lenFirst c.cfgLenbe c.encLen) := by
  rw [Codec.encMove, h]

theorem Codec.encMove_of_len1 {c : Codec} (h : c.encState = .len1) :
    c.encMove = some ({ c with encState := if c.encLen = 0 then .csum else .data },
      lenSecond c.cfgLenbe c.encLen) := by
  have hempty : (0 = c.encLen.toNat) ↔ c.encLen = 0 := by rw [eq_comm, ← BitVec.toNat_inj]; rfl
  simp only [Codec.encMove, h, Codec.encAfter, hempty]

theorem Codec.encMove_of_data {c : Codec} (h : c.encState = .data) : c.encMove = some c.encData := by
  rw [Codec.encMove, h]

theorem Codec.encData_of_reserved {c : Codec} (h : reserved (c.readTx c.encCnt) = true) :
    c.encData = ({ c with
      txcsSum := csAdd c.txcsSum (c.readTx c.encCnt), encCnt := c.encCnt + 1, encHold := c.readTx c.encCnt,
      encState := .esc }, 0x7D) := by
  simp only [Codec.encData, needsEscape_eq_reserved, h, if_true]
  rfl

theorem Codec.encData_of_not_reserved {c : Codec} (h : reserved (c.readTx c.encCnt) = false) :
    c.encData = ({ c with
      txcsSum := csAdd c.txcsSum (c.readTx c.encCnt), encCnt := c.encCnt + 1,
      encState := if c.encCnt.toNat + 1 = c.encLen.toNat then .csum else .data }, c.readTx c.encCnt) := by
  simp only [Codec.encData, needsEscape_eq_reserved, h, Bool.false_eq_true, if_false]
  rfl

theorem Codec.encMove_of_esc {c : Codec} (h : c.encState = .esc) :
    c.encMove = some ({ c with encState := if c.encCnt = c.encLen then .csum else .data }, c.encHold ^^^ 0x20) := by
  simp only [Codec.encMove, h, Codec.encAfter, BitVec.toNat_inj]
  rfl

theorem Codec.encMove_of_csum {c : Codec} (h : c.encState = .csum) :
    c.encMove = some ({ c with encState := .idle }, csFin c.txcsSum) := by
  rw [Codec.encMove, h]

/-! ### The statements -/

/-- Settles O34: the edges of the encoder's table one by one, and `0x31` is an `op` code of format `Z`. -/
theorem encStepEmitsTheNextWireByte : Obligations.EncStepEmitsTheNextWireByte := by
  unfold Obligations.EncStepEmitsTheNextWireByte
  refine ⟨fun s => ?_, rfl, fun w s hop => deliverCommand_of_opCodeZ s (by rw [hop]; decide)⟩
  refine ⟨fun hs => ?_, fun hs => ?_, fun hs => ?_, fun hs => ?_, fun hs hb => ?_, fun hs hb => ?_, fun hs => ?_,
    fun hs => ?_⟩
  · rw [exec_eq_issue, issue_encStep_of_idle hs]
  · exact exec_encStep_of_encMove (Codec.encMove_of_delim hs)
  · rw [← lenFirst_eq_ofNat]
    exact exec_encStep_of_encMove (Codec.encMove_of_len0 hs)
  · rw [← lenSecond_eq_ofNat]
    exact exec_encStep_of_encMove (Codec.encMove_of_len1 hs)
  · rw [← csAdd_eq_ofNat, ← succ_eq_ofNat]
    exact exec_encStep_of_encMove (by rw [Codec.encMove_of_data hs, Codec.encData_of_reserved hb])
  · rw [← csAdd_eq_ofNat, ← succ_eq_ofNat]
    exact exec_encStep_of_encMove (by rw [Codec.encMove_of_data hs, Codec.encData_of_not_reserved hb])
  · exact exec_encStep_of_encMove (Codec.encMove_of_esc hs)
  · rw [← csFin_eq_ofNat]
    exact exec_encStep_of_encMove (Codec.encMove_of_csum hs)

/-- Settles O33: the effect is that of the model, and `0x30` is an `op` code of format `A`. -/
theorem encStartBeginsAFrame : Obligations.EncStartBeginsAFrame := by
  unfold Obligations.EncStartBeginsAFrame
  refine ⟨fun a s hidle => ?_, fun a s hbusy => ?_, fun a => ?_,
    fun w s hop => deliverCommand_of_opCodeA s (by rw [hop]; decide)⟩
  · rw [exec_eq_issue, issue_encStart_of_idle a hidle]
    rfl
  · rw [exec_eq_issue, issue_encStart_of_busy a hbusy]
  · exact mkWord_toNat 0x30 a 0

end Sys2Proof.Machine
end

section
/-! PROOFS. The FrameEncoder (42_encoder.md), frame by frame: the wire bytes of a frame that are still to come, the
frame on the wire whatever stands between its steps, and the statements of R178, R180 and of `ENCODE`
(30_encoding.md R104). -/

namespace Sys2Proof.Machine

/-! ### The wire bytes of a frame that are still to come -/

/-- The payload of the frame in progress. -/
def Codec.framePayload (c : Codec) : List Byte := c.txPayload c.encLen.toNat

/-- The stuffed payload bytes from `ENC.cnt` on, and the checksum byte (30_encoding.md R92, R94). -/
def Codec.unsentPayload (c : Codec) : List Byte :=
  stuff (c.framePayload.drop c.encCnt.toNat) ++ [cks c.framePayload]

/-- The wire bytes of the frame in progress that no `ENC.STEP` has emitted yet; none where the encoder is idle. -/
def Codec.unsent (c : Codec) : List Byte :=
  match c.encState with
  | .idle => []
  | .delim => 0x7E :: lenFirst c.cfgLenbe c.encLen :: lenSecond c.cfgLenbe c.encLen :: c.unsentPayload
  | .len0 => lenFirst c.cfgLenbe c.encLen :: lenSecond c.cfgLenbe c.encLen :: c.unsentPayload
  | .len1 => lenSecond c.cfgLenbe c.encLen :: c.unsentPayload
  | .data => c.unsentPayload
  | .esc => x20 c.encHold :: c.unsentPayload
  | .csum => [cks c.framePayload]

theorem Codec.unsent_of_delim {c : Codec} (h : c.encState = .delim) :
    c.unsent = 0x7E :: lenFirst c.cfgLenbe c.encLen :: lenSecond c.cfgLenbe c.encLen :: c.unsentPayload := by
  rw [Codec.unsent, h]

theorem Codec.unsent_of_len0 {c : Codec} (h : c.encState = .len0) :
    c.unsent = lenFirst c.cfgLenbe c.encLen :: lenSecond c.cfgLenbe c.encLen :: c.unsentPayload := by
  rw [Codec.unsent, h]

theorem Codec.unsent_of_len1 {c : Codec} (h : c.encState = .len1) :
    c.unsent = lenSecond c.cfgLenbe c.encLen :: c.unsentPayload := by
  rw [Codec.unsent, h]

theorem Codec.unsent_of_data {c : Codec} (h : c.encState = .data) : c.unsent = c.unsentPayload := by
  rw [Codec.unsent, h]

theorem Codec.unsent_of_esc {c : Codec} (h : c.encState = .esc) : c.unsent = x20 c.encHold :: c.unsentPayload := by
  rw [Codec.unsent, h]

theorem Codec.unsent_of_csum {c : Codec} (h : c.encState = .csum) : c.unsent = [cks c.framePayload] := by
  rw [Codec.unsent, h]

theorem Codec.unsent_eq_nil (c : Codec) : c.unsent = [] ↔ c.encState = .idle := by
  unfold Codec.unsent
  cases c.encState <;> simp [Codec.unsentPayload]

theorem Codec.unsent_congr {c c' : Codec} (h : ∀ f ∈ .cfg :: encoderFields, f.same c c') : c'.unsent = c.unsent := by
  simp only [encoderFields, List.forall_mem_cons, Field.same] at h
  obtain ⟨hcfg, hstate, hlen, hcnt, -, hhold, hbuf, -⟩ := h
  have hpayload (n : Nat) : c'.txPayload n = c.txPayload n := Codec.txPayload_congr _ _ n fun i _ => (hbuf _).symm
  simp only [Codec.unsent, Codec.unsentPayload, Codec.framePayload, hcfg, hstate, hlen, hcnt, hhold, hpayload]

/-- A frame that has just been started is still to come whole (30_encoding.md R94). -/
theorem Codec.unsent_startFrame (c : Codec) (n : Half) :
    (c.startFrame n).unsent = encodeFrame (c.txPayload n.toNat) c.cfgLenbe := by
  rw [encodeFrame, Codec.length_txPayload, lenBytes_toNat]
  rfl

/-- `ENC.START` with the encoder idle begins a frame that is still to come whole. -/
theorem unsent_issue_encStart {s : State} (n : Half) (hidle : s.codec.encState = .idle) :
    EncoderInv (issue (.encStart n) s).codec ∧
    (issue (.encStart n) s).codec.unsent = encodeFrame (s.codec.txPayload n.toNat) s.codec.cfgLenbe := by
  rw [issue_encStart_of_idle n hidle]
  exact ⟨encoderInv_startFrame _ n, Codec.unsent_startFrame _ n⟩

/-- The payload byte at the count is the next logical byte to come. -/
theorem Codec.unsentPayload_of_lt {c : Codec} (h : c.encCnt.toNat < c.encLen.toNat) :
    c.unsentPayload = stuff1 (c.readTx c.encCnt) ++
      (stuff (c.framePayload.drop (c.encCnt.toNat + 1)) ++ [cks c.framePayload]) := by
  have hlen : c.encCnt.toNat < c.framePayload.length := by simpa [Codec.framePayload] using h
  have hbyte : c.framePayload[c.encCnt.toNat] = c.readTx c.encCnt := by simp [Codec.framePayload, Codec.txPayload]
  rw [Codec.unsentPayload, List.drop_eq_getElem_cons hlen, hbyte, stuff, List.append_assoc]

/-- When the whole payload is counted only the checksum byte is to come. -/
theorem Codec.unsentPayload_of_eq {c : Codec} (h : c.encCnt = c.encLen) : c.unsentPayload = [cks c.framePayload] := by
  have hdone : c.framePayload.drop c.encCnt.toNat = [] := by simp [Codec.framePayload, h]
  rw [Codec.unsentPayload, hdone]
  rfl

/-- Between two logical bytes the rest of the payload and the checksum byte are to come. -/
theorem Codec.unsent_of_encAfter {c : Codec} (h : c.encState = c.encAfter c.encCnt.toNat) :
    c.unsent = c.unsentPayload := by
  unfold Codec.encAfter at h
  split at h
  next hend => rw [Codec.unsent_of_csum h, Codec.unsentPayload_of_eq (BitVec.eq_of_toNat_eq hend)]
  next => exact Codec.unsent_of_data h

/-- The encoder's move emits the first byte that is still to come and leaves the others (42_encoder.md R180). -/
theorem EncoderInv.unsent_of_encMove {c c' : Codec} {b : Byte} (h : EncoderInv c)
    (hmove : c.encMove = some (c', b)) : c.unsent = b :: c'.unsent := by
  rcases c.encMove_cases c' b hmove with ⟨hs, rfl, rfl⟩ | ⟨hs, rfl, rfl⟩ | ⟨hs, rfl, rfl⟩ | ⟨hs, hb, rfl, rfl⟩ |
    ⟨hs, hb, rfl, rfl⟩ | ⟨hs, rfl, rfl⟩ | ⟨hs, rfl, rfl⟩
  · rw [Codec.unsent_of_delim hs]
    rfl
  · rw [Codec.unsent_of_len0 hs]
    rfl
  · obtain ⟨hcnt, -⟩ := h.header (.inr (.inr hs))
    rw [Codec.unsent_of_len1 hs, Codec.unsent_of_encAfter]
    · rfl
    · simp only [hcnt]
      rfl
  · have hlt := h.data hs
    rw [needsEscape_eq_reserved] at hb
    rw [Codec.unsent_of_data hs, Codec.unsentPayload_of_lt hlt, stuff1_of_reserved hb, Codec.unsent_of_esc rfl]
    simp only [Codec.unsentPayload, toNat_succ_of_lt hlt]
    rfl
  · have hlt := h.data hs
    rw [needsEscape_eq_reserved] at hb
    rw [Codec.unsent_of_data hs, Codec.unsentPayload_of_lt hlt, stuff1_of_not_reserved (ne_true_of_eq_false hb),
      Codec.unsent_of_encAfter]
    all_goals simp only [Codec.unsentPayload, toNat_succ_of_lt hlt]
    all_goals rfl
  · rw [Codec.unsent_of_esc hs, Codec.unsent_of_encAfter rfl]
    rfl
  · have hsum := h.txcsSum_of_busy (by simp [hs])
    rw [h.checksum hs] at hsum
    rw [Codec.unsent_of_csum hs, hsum, ← cks_eq_csFin_sum8]
    rfl

/-- One byte is left just where the encoder is about to emit the checksum byte. -/
theorem EncoderInv.csum_of_last {c : Codec} (h : EncoderInv c) (hlast : c.unsent.length = 1) :
    c.encState = .csum := by
  cases hs : c.encState with
  | csum => rfl
  | data =>
    have hbyte := length_stuff1 (c.readTx c.encCnt)
    rw [Codec.unsent_of_data hs, Codec.unsentPayload_of_lt (h.data hs)] at hlast
    simp only [List.length_append, List.length_singleton] at hlast
    omega
  | _ => simp [Codec.unsent, hs, Codec.unsentPayload] at hlast

/-! ### From one state to a later one of the same frame -/

theorem issueAll_append (is js : List Instr) (s : State) : issueAll (is ++ js) s = issueAll js (issueAll is s) := by
  induction is generalizing s with
  | nil => rfl
  | cons i is ih => exact ih (issue i s)

/-- From `t` to `u` the encoder has emitted `k` more bytes of the frame in progress, the first `k` of those still to
come. -/
structure Sends (k : Nat) (t u : State) : Prop where
  inv : EncoderInv u.codec
  wire : u.txWire ++ u.codec.unsent = t.txWire ++ t.codec.unsent
  left : u.codec.unsent.length + k = t.codec.unsent.length
  encLen : u.codec.encLen = t.codec.encLen
  readTx : ∀ a, u.codec.readTx a = t.codec.readTx a

theorem Sends.refl {t : State} (h : EncoderInv t.codec) : Sends 0 t t := ⟨h, rfl, rfl, rfl, fun _ => rfl⟩

theorem Sends.trans {j k : Nat} {t u v : State} (h : Sends j t u) (h' : Sends k u v) : Sends (j + k) t v where
  inv := h'.inv
  wire := h'.wire.trans h.wire
  left := by rw [← h.left, ← h'.left]; omega
  encLen := h'.encLen.trans h.encLen
  readTx := fun a => (h'.readTx a).trans (h.readTx a)

/-- When nothing is left to send, the wire has got all that was still to come, and the encoder is idle. -/
theorem Sends.complete {t u : State} (h : Sends t.codec.unsent.length t u) :
    u.txWire = t.txWire ++ t.codec.unsent ∧ u.codec.encState = .idle := by
  have hnil : u.codec.unsent = [] := List.eq_nil_of_length_eq_zero (by have := h.left; omega)
  have hwire := h.wire
  rw [hnil, List.append_nil] at hwire
  exact ⟨hwire, u.codec.unsent_eq_nil.mp hnil⟩

theorem Sends.of_encMove {t : State} {c : Codec} {b : Byte} (h : EncoderInv t.codec)
    (hmove : t.codec.encMove = some (c, b)) : Sends 1 t (emitted t c b) := by
  have hunsent := h.unsent_of_encMove hmove
  have hframe := Codec.encMove_frame _ _ _ hmove
  refine ⟨h.encMove hmove, ?_, ?_, ?_, Codec.readTx_congr _ _ ?_⟩
  · rw [hunsent]
    exact List.append_assoc _ _ _
  · rw [hunsent]
    rfl
  · simp [emitted, hframe]
  · simp [emitted, hframe]

/-- An operation that leaves the encoder, the byte order and the transmit wire alone sends nothing. -/
theorem Sends.of_same {t u : State} (h : EncoderInv t.codec) (hwire : u.txWire = t.txWire)
    (hsame : ∀ f ∈ .cfg :: encoderFields, f.same t.codec u.codec) : Sends 0 t u := by
  have hunsent := Codec.unsent_congr hsame
  refine ⟨h.congr fun f hf => hsame f (List.mem_cons_of_mem _ hf), ?_, ?_, ?_, fun a => ?_⟩
  · rw [hwire, hunsent]
  · rw [hunsent]
    rfl
  · exact (hsame .encLen (by decide)).symm
  · exact (hsame .txbuf (by decide) a).symm

theorem Sends.of_changesOnly {t u : State} {fs : List Field} (h : EncoderInv t.codec) (hwire : u.txWire = t.txWire)
    (hch : t.codec.ChangesOnly fs u.codec) (hfs : ∀ f ∈ .cfg :: encoderFields, f ∉ fs) : Sends 0 t u :=
  .of_same h hwire fun f hf => hch f (hfs f hf)

theorem issue_encStep_sends {t : State} (h : EncoderInv t.codec) (hbusy : t.codec.encState ≠ .idle) :
    Sends 1 t (issue .encStep t) := by
  obtain ⟨c, b, hmove⟩ := exists_encMove hbusy
  rw [issue_encStep_of_encMove hmove]
  exact .of_encMove h hmove

/-- No operation but `ENC.STEP` moves a frame in progress: those that write what the encoder uses are refused
(20_memory.md R72). -/
theorem issue_sends_nothing {i : Instr} {t : State} (hi : i ≠ .encStep) (h : EncoderInv t.codec)
    (hbusy : t.codec.encState ≠ .idle) : Sends 0 t (issue i t) := by
  have heffect := issue_effect i t
  generalize issue i t = u at heffect ⊢
  cases heffect with
  | respond => exact .of_same h rfl fun f _ => f.same_refl _
  | setSum i v => exact .of_changesOnly h rfl (Codec.changesOnly_cs0Sum _ v) (by decide)
  | setOrder a d henc | store a d henc | startFrame n henc => exact absurd henc hbusy
  | emit => exact absurd rfl hi
  | arm => exact .of_changesOnly h rfl (Codec.changesOnly_armDecoder _) (by decide)
  | take d c r hmove => exact .of_changesOnly h rfl (Codec.changesOnly_of_decMove hmove) (by decide)
  | timeout => exact .of_changesOnly h rfl (Codec.changesOnly_endInError _ .timeout) (by decide)

/-- As long as the frame outlasts its steps, each `ENC.STEP` sends one byte, whatever stands between them. -/
theorem issueAll_sends (is : List Instr) {t : State} (h : EncoderInv t.codec)
    (hcount : is.count .encStep < t.codec.unsent.length) : Sends (is.count .encStep) t (issueAll is t) := by
  induction is generalizing t with
  | nil => exact .refl h
  | cons i is ih =>
    have hbusy : t.codec.encState ≠ .idle := fun hidle => by
      rw [t.codec.unsent_eq_nil.mpr hidle] at hcount
      exact Nat.not_lt_zero _ hcount
    by_cases hi : i = .encStep
    · subst hi
      have hstep := issue_encStep_sends h hbusy
      have hleft := hstep.left
      rw [List.count_cons_self] at hcount ⊢
      rw [Nat.add_comm]
      exact hstep.trans (ih hstep.inv (by omega))
    · have hstep := issue_sends_nothing hi h hbusy
      have hleft := hstep.left
      rw [List.count_cons_of_ne hi] at hcount ⊢
      rw [← Nat.zero_add (is.count .encStep)]
      exact hstep.trans (ih hstep.inv (by omega))

/-- After the last byte the count is the length and the sum is that of the whole payload
(42_encoder.md R184 (e), (f)). -/
theorem EncoderInv.counted_of_last {c c' : Codec} {b : Byte} (h : EncoderInv c) (hlast : c.unsent.length = 1)
    (hmove : c.encMove = some (c', b)) : c'.encCnt = c'.encLen ∧ c'.txcsSum = sum8 c'.framePayload := by
  have hs := h.csum_of_last hlast
  have hsum := h.txcsSum_of_busy (by simp [hs])
  rw [h.checksum hs] at hsum
  obtain ⟨rfl, -⟩ := Prod.mk.inj (Option.some.inj ((Codec.encMove_of_csum hs).symm.trans hmove))
  exact ⟨h.checksum hs, hsum⟩

/-- An `ENC.STEP` in any state, idle or not: the first byte still to come is no longer so. -/
theorem unsent_issue_encStep {t : State} (h : EncoderInv t.codec) :
    EncoderInv (issue .encStep t).codec ∧ (issue .encStep t).codec.unsent = t.codec.unsent.tail := by
  by_cases hidle : t.codec.encState = .idle
  · rw [issue_encStep_of_idle hidle, t.codec.unsent_eq_nil.mpr hidle]
    exact ⟨h, t.codec.unsent_eq_nil.mpr hidle⟩
  · obtain ⟨c, b, hmove⟩ := exists_encMove hidle
    rw [issue_encStep_of_encMove hmove, h.unsent_of_encMove hmove]
    exact ⟨h.encMove hmove, rfl⟩

theorem unsent_issueAll_encStep (k : Nat) {t : State} (h : EncoderInv t.codec) :
    (issueAll (List.replicate k .encStep) t).codec.unsent = t.codec.unsent.drop k := by
  induction k generalizing t with
  | zero => rfl
  | succ k ih =>
    obtain ⟨hinv, htail⟩ := unsent_issue_encStep h
    rw [List.replicate_succ, issueAll, ih hinv, htail, List.drop_tail]

/-- `ENC.RUN` with enough repetitions sends all that is still to come. -/
theorem encSteps_sends (fuel : Nat) {t : State} (h : EncoderInv t.codec) (hfuel : t.codec.unsent.length < fuel) :
    Sends t.codec.unsent.length t (encSteps fuel t) := by
  induction fuel generalizing t with
  | zero => exact absurd hfuel (Nat.not_lt_zero _)
  | succ fuel ih =>
    rw [encSteps, answer_encStep_status]
    by_cases hidle : t.codec.encState = .idle
    · rw [if_pos hidle, if_neg (by decide), issue_encStep_of_idle hidle, t.codec.unsent_eq_nil.mpr hidle]
      exact .of_same h rfl fun f _ => f.same_refl _
    · have hstep := issue_encStep_sends h hidle
      have hleft := hstep.left
      rw [if_neg hidle, if_pos rfl, ← hleft, Nat.add_comm]
      exact hstep.trans (ih hstep.inv (by omega))

/-! ### The payload in the buffer (30_encoding.md R104) -/

theorem Field.same_trans {f : Field} {c c' c'' : Codec} (h : f.same c c') (h' : f.same c' c'') : f.same c c'' := by
  cases f with
  | txbuf | rxbuf => exact fun a => (h a).trans (h' a)
  | decExpectedReceived => exact ⟨h.1.trans h'.1, h.2.trans h'.2⟩
  | _ => exact Eq.trans h h'

/-- Operations one after another change no field that none of them writes. -/
theorem issueAll_changesOnly {is : List Instr} {fs : List Field} (s : State) (h : ∀ i ∈ is, ∀ f ∈ writes i, f ∈ fs) :
    s.codec.ChangesOnly fs (issueAll is s).codec := by
  induction is generalizing s with
  | nil => exact .refl _ _
  | cons i is ih =>
    obtain ⟨hi, his⟩ := List.forall_mem_cons.mp h
    exact fun f hf =>
      Field.same_trans (issue_changesOnly_writes i s f fun hw => hf (hi f hw)) (ih (issue i s) his f hf)

theorem issueAll_txWire {is : List Instr} (s : State) (h : ∀ i ∈ is, i ≠ .encStep) :
    (issueAll is s).txWire = s.txWire := by
  induction is generalizing s with
  | nil => rfl
  | cons i is ih =>
    obtain ⟨hi, his⟩ := List.forall_mem_cons.mp h
    exact (ih (issue i s) his).trans (issue_txWire s hi)

theorem issueAll_rxWire {is : List Instr} (s : State) (h : ∀ i ∈ is, ∀ d, i ≠ .decByte d) :
    (issueAll is s).rxWire = s.rxWire := by
  induction is generalizing s with
  | nil => rfl
  | cons i is ih =>
    obtain ⟨hi, his⟩ := List.forall_mem_cons.mp h
    exact (ih (issue i s) his).trans (issue_rxWire s hi)

theorem eq_txbWr_of_mem_txbLoad {a : Nat} {p : List Byte} {i : Instr} (h : i ∈ txbLoad a p) :
    ∃ x d, i = .txbWr x d := by
  induction p generalizing a with
  | nil => cases h
  | cons b p ih =>
    obtain rfl | h := List.mem_cons.mp h
    · exact ⟨_, b, rfl⟩
    · exact ih h

theorem txbLoad_append_singleton (a : Nat) (p : List Byte) (b : Byte) :
    txbLoad a (p ++ [b]) = txbLoad a p ++ [.txbWr (BitVec.ofNat 16 (a + p.length)) b] := by
  induction p generalizing a with
  | nil => rfl
  | cons c p ih =>
    rw [List.cons_append, txbLoad, ih, txbLoad, List.length_cons, Nat.add_right_comm, Nat.add_assoc, List.cons_append]

/-- A load writes `TXBUF` and nothing else. -/
theorem issueAll_txbLoad_changesOnly (a : Nat) (p : List Byte) (s : State) :
    s.codec.ChangesOnly [.txbuf] (issueAll (txbLoad a p) s).codec := by
  refine issueAll_changesOnly s fun i hi f hf => ?_
  obtain ⟨x, d, rfl⟩ := eq_txbWr_of_mem_txbLoad hi
  exact hf

/-- A byte stored behind a payload makes it one byte longer. -/
theorem Codec.txPayload_writeTx_succ (c : Codec) {n : Nat} (hn : n < 65536) (v : Byte) :
    (c.writeTx (BitVec.ofNat 16 n) v).txPayload (n + 1) = c.txPayload n ++ [v] := by
  rw [Codec.txPayload_succ, Codec.readTx_writeTx, if_pos rfl]
  congr 1
  refine Codec.txPayload_congr _ _ n fun i hi => ?_
  rw [Codec.readTx_writeTx, if_neg]
  intro heq
  have hnat := congrArg BitVec.toNat heq
  simp only [BitVec.toNat_ofNat] at hnat
  omega

/-- With the encoder idle a loaded payload stands in `TXBUF` from address 0 on. -/
theorem txPayload_issueAll_txbLoad {p : List Byte} {s : State} (hp : p.length ≤ Config.payloadMax)
    (hidle : s.codec.encState = .idle) : (issueAll (txbLoad 0 p) s).codec.txPayload p.length = p := by
  induction p using List.reverseRecOn with
  | nil => rfl
  | append_singleton p b ih =>
    have hloaded : (issueAll (txbLoad 0 p) s).codec.encState = .idle :=
      (issueAll_txbLoad_changesOnly 0 p s .encState (by decide)).symm.trans hidle
    rw [List.length_append, List.length_singleton] at hp ⊢
    unfold Config.payloadMax at hp ih
    rw [txbLoad_append_singleton, issueAll_append, issueAll, issueAll, issue_txbWr, if_neg (by simp [hloaded]),
      Nat.zero_add, State.respond_codec, State.setCodec_codec, Codec.txPayload_writeTx_succ _ (by omega),
      ih (by omega)]

theorem encSteps_eq_issueAll (fuel : Nat) (s : State) :
    ∃ k, encSteps fuel s = issueAll (List.replicate k .encStep) s := by
  induction fuel generalizing s with
  | zero => exact ⟨0, rfl⟩
  | succ fuel ih =>
    rw [encSteps]
    split
    · obtain ⟨k, hk⟩ := ih (issue .encStep s)
      exact ⟨k + 1, hk⟩
    · exact ⟨1, rfl⟩

/-- `ENCODE` is a list of operations of the encode direction (30_encoding.md R104). -/
theorem encodePayload_eq_issueAll (p : List Byte) (s : State) :
    ∃ is, encodePayload p s = issueAll is s ∧
      ∀ i ∈ is, (∃ x d, i = .txbWr x d) ∨ (∃ n, i = .encStart n) ∨ i = .encStep := by
  obtain ⟨k, hk⟩ := encSteps_eq_issueAll 131075
    (issue (.encStart (BitVec.ofNat 16 p.length)) (issueAll (txbLoad 0 p) s))
  refine ⟨txbLoad 0 p ++ .encStart (BitVec.ofNat 16 p.length) :: List.replicate k .encStep, ?_, fun i hi => ?_⟩
  · rw [issueAll_append]
    exact hk
  · rw [List.mem_append, List.mem_cons] at hi
    obtain hi | rfl | hi := hi
    · exact .inl (eq_txbWr_of_mem_txbLoad hi)
    · exact .inr (.inl ⟨_, rfl⟩)
    · exact .inr (.inr (List.eq_of_mem_replicate hi))

/-- `ENCODE` changes only what the encoder owns, and takes no byte off the receive wire. -/
theorem encodePayload_frame (p : List Byte) (s : State) :
    s.codec.ChangesOnly encoderFields (encodePayload p s).codec ∧ (encodePayload p s).rxWire = s.rxWire := by
  obtain ⟨is, heq, his⟩ := encodePayload_eq_issueAll p s
  rw [heq]
  constructor
  · refine issueAll_changesOnly s fun i hi => ?_
    obtain ⟨x, d, rfl⟩ | ⟨n, rfl⟩ | rfl := his i hi <;> simp [writes, encoderFields]
  · refine issueAll_rxWire s fun i hi d => ?_
    obtain ⟨x, d, rfl⟩ | ⟨n, rfl⟩ | rfl := his i hi <;> nofun

/-! ### The statements -/

/-- Settles O35: the list sends all bytes of the frame but the last, and the last `ENC.STEP` sends the checksum byte. -/
theorem encoderRefinesEncodeUnderInterleaving : Obligations.EncoderRefinesEncodeUnderInterleaving := by
  unfold Obligations.EncoderRefinesEncodeUnderInterleaving
  intro s n is hidle hcount
  obtain ⟨hinv, hframe⟩ := unsent_issue_encStart n hidle
  have hstart := issue_encStart_of_idle n hidle
  simp only [issueAll, issueAll_append]
  generalize issue (.encStart n) s = s' at hinv hframe hstart ⊢
  have hlength : s'.codec.unsent.length = is.count .encStep + 1 := by rw [hframe, length_encodeFrame, hcount]
  have hmost := issueAll_sends is hinv (by omega)
  generalize issueAll is s' = u at hmost ⊢
  have hlast : u.codec.unsent.length = 1 := by
    have hleft := hmost.left
    omega
  obtain ⟨c, b, hmove⟩ := exists_encMove (c := u.codec) (by simp [hmost.inv.csum_of_last hlast])
  obtain ⟨hcnt, hsum⟩ := hmost.inv.counted_of_last hlast hmove
  rw [issue_encStep_of_encMove hmove]
  have hall := hmost.trans (.of_encMove hmost.inv hmove)
  rw [← hlength] at hall
  obtain ⟨hwire, hdone⟩ := hall.complete
  have hlen : c.encLen = n := hall.encLen.trans (by rw [hstart]; rfl)
  have hread (a : Half) : c.readTx a = s.codec.readTx a := (hall.readTx a).trans (by rw [hstart]; rfl)
  refine ⟨?_, hdone, hlen, hcnt.trans hlen, hsum.trans ?_, hread⟩
  · rw [hwire, hframe, hstart]
    rfl
  · rw [Codec.framePayload, hlen, Codec.txPayload_congr c s.codec _ fun i _ => hread _]

/-- Settles O37: the payload is loaded, its frame is started, and `ENC.RUN` repeats more often than a frame has
bytes. -/
theorem encodePutsTheFrameOnTheWire : Obligations.EncodePutsTheFrameOnTheWire := by
  unfold Obligations.EncodePutsTheFrameOnTheWire
  intro p s hp hidle
  have hload := issueAll_txbLoad_changesOnly 0 p s
  have hloaded : (issueAll (txbLoad 0 p) s).codec.encState = .idle := (hload .encState (by decide)).symm.trans hidle
  have hcfg : (issueAll (txbLoad 0 p) s).codec.cfgLenbe = s.codec.cfgLenbe := (hload .cfg (by decide)).symm
  have hquiet : (issueAll (txbLoad 0 p) s).txWire = s.txWire := issueAll_txWire s fun i hi => by
    obtain ⟨x, d, rfl⟩ := eq_txbWr_of_mem_txbLoad hi
    nofun
  have hn : (BitVec.ofNat 16 p.length).toNat = p.length := by
    rw [BitVec.toNat_ofNat]
    exact Nat.mod_eq_of_lt (Nat.lt_succ_of_le hp)
  obtain ⟨hinv, hunsent⟩ := unsent_issue_encStart (BitVec.ofNat 16 p.length) hloaded
  rw [hn, txPayload_issueAll_txbLoad hp hidle, hcfg] at hunsent
  obtain ⟨-, hbounds, -⟩ := frameLengthAndStuffing
  have hfuel := Nat.lt_succ_of_le (hbounds p s.codec.cfgLenbe hp).2
  obtain ⟨hwire, hdone⟩ := (encSteps_sends 131075 hinv (hunsent ▸ hfuel)).complete
  rw [hunsent, issue_txWire (i := .encStart _) _ nofun, hquiet] at hwire
  obtain ⟨hframe, hrx⟩ := encodePayload_frame p s
  have hdisjoint : ∀ f ∈ .cfg :: decoderFields, f ∉ encoderFields := by decide
  exact ⟨hwire, hdone, (hframe .cfg (by decide)).symm,
    fun f hf => hframe f (hdisjoint f (List.mem_cons_of_mem _ hf)), hrx⟩

/-- Settles O36: each `ENC.STEP` takes one byte off those still to come. -/
theorem frameTakesExactlyItsLengthInSteps : Obligations.FrameTakesExactlyItsLengthInSteps := by
  unfold Obligations.FrameTakesExactlyItsLengthInSteps
  intro s n k hidle
  obtain ⟨hinv, hframe⟩ := unsent_issue_encStart n hidle
  have hlength : 4 + n.toNat + (s.codec.txPayload n.toNat).countP reserved =
      (encodeFrame (s.codec.txPayload n.toNat) s.codec.cfgLenbe).length := by
    rw [length_encodeFrame, frameLength, Codec.length_txPayload]
  have hdone : (issueAll (.encStart n :: List.replicate k .encStep) s).codec.encState = .idle ↔
      4 + n.toNat + (s.codec.txPayload n.toNat).countP reserved ≤ k := by
    rw [← Codec.unsent_eq_nil, issueAll, unsent_issueAll_encStep k hinv, hframe, List.drop_eq_nil_iff, hlength]
  simp only [answer_encStep_status, hdone, ← Nat.not_lt, ite_not]

end Sys2Proof.Machine
end

section
/-! PROOFS. The FrameDecoder (43_decoder.md), one operation at a time: the effect of `DEC.START`, `DEC.BYTE` and
`DEC.TIMEOUT`, the decoder's move state by state, and the statements of R205 to R214. -/

namespace Sys2Proof.Machine

/-! ### One operation (43_decoder.md R205, R206, R214) -/

theorem issue_decStart_of_idle {s : State} (h : s.codec.decState = .idle) :
    issue .decStart s = performed s s.codec.armDecoder 0 := by
  rw [issue_decStart, if_neg (by simp [h])]
  rfl

theorem issue_decStart_of_busy {s : State} (h : s.codec.decState ≠ .idle) :
    issue .decStart s = refused s .errBusy := by
  rw [issue_decStart, if_pos (by simp [h])]
  rfl

theorem issue_decTimeout_of_busy {s : State} (h : s.codec.decState ≠ .idle) :
    issue .decTimeout s = performed s (s.codec.endInError .timeout) 4 := by
  rw [issue_decTimeout, if_pos (by simp [h])]
  rfl

theorem issue_decTimeout_of_idle {s : State} (h : s.codec.decState = .idle) :
    issue .decTimeout s = refused s .errIdle := by
  rw [issue_decTimeout, if_neg (by simp [h])]
  rfl

theorem issue_decByte_of_idle {s : State} (d : Byte) (h : s.codec.decState = .idle) :
    issue (.decByte d) s = refused s .errIdle := by
  rw [issue_decByte, (s.codec.decMove_eq_none d).mpr h]
  rfl

theorem issue_decByte_of_decMove {s : State} {d : Byte} {c : Codec} {r : DecResult}
    (h : s.codec.decMove d = some (c, r)) : issue (.decByte d) s = taken s c d (resultData r) := by
  rw [issue_decByte, h]
  rfl

theorem exec_decByte_of_decMove {s : State} {d : Byte} {c : Codec} {r : DecResult}
    (h : s.codec.decMove d = some (c, r)) : exec (.decByte d) s = .next (taken s c d (resultData r)) := by
  rw [exec_eq_issue, issue_decByte_of_decMove h]

theorem exists_decMove {c : Codec} (d : Byte) (h : c.decState ≠ .idle) : ∃ c' r, c.decMove d = some (c', r) := by
  obtain ⟨⟨c', r⟩, hmove⟩ := Option.ne_none_iff_exists'.mp (mt (c.decMove_eq_none d).mp h)
  exact ⟨c', r, hmove⟩

theorem decState_ne_idle_of_decMove {c c' : Codec} {d : Byte} {r : DecResult} (h : c.decMove d = some (c', r)) :
    c.decState ≠ .idle := fun hidle => by
  simp [(c.decMove_eq_none d).mpr hidle] at h

/-! ### The length register as a number (43_decoder.md R208, R209) -/

theorem highByte_append (x y : Byte) : highByte (x ++ y) = x := BitVec.extractLsb'_append_eq_left

theorem lowByte_append (x y : Byte) : lowByte (x ++ y) = y := BitVec.extractLsb'_append_eq_right

theorem toNat_append_byte (x y : Byte) : (x ++ y : Half).toNat = 256 * x.toNat + y.toNat := by
  rw [BitVec.toNat_append, ← Nat.shiftLeft_add_eq_or_of_lt y.isLt, Nat.shiftLeft_eq, Nat.mul_comm]

theorem toNat_lowByte (n : Half) : (lowByte n).toNat = n.toNat % 256 := by
  simp [lowByte, BitVec.extractLsb'_toNat]

theorem toNat_highByte (n : Half) : (highByte n).toNat = n.toNat / 256 := by
  have hn := n.isLt
  simp only [highByte, BitVec.extractLsb'_toNat, Nat.shiftRight_eq_div_pow]
  omega

/-- The first length byte is read back from the register it was put into. -/
theorem lenFirst_lenAfterFirst (o : Bool) (d : Byte) : lenFirst o (lenAfterFirst o d) = d := by
  cases o
  · exact lowByte_append 0 d
  · exact highByte_append d 0

theorem toNat_lenAfterFirst (o : Bool) (d : Byte) :
    (lenAfterFirst o d).toNat = if o then 256 * d.toNat else d.toNat := by
  cases o <;> simp [lenAfterFirst, toNat_append_byte]

/-- The register after both length bytes holds the length of the frame (30_encoding.md R91). -/
theorem toNat_lenAfterSecond (o : Bool) (n : Half) (d : Byte) :
    (lenAfterSecond o n d).toNat = lengthOf o (lenFirst o n) d := by
  cases o <;> simp [lenAfterSecond, lenFirst, lengthOf, toNat_append_byte, Nat.add_comm]

/-! ### The decoder's move, state by state (43_decoder.md R207 to R213) -/

theorem Codec.decMove_of_delim {c : Codec} (h : c.decState = .delim) :
    c.decMove 0x7E = some ({ c with decState := .len0 }, .none) := by
  rw [Codec.decMove, h]
  rfl

theorem Codec.decMove_of_delim_of_ne {c : Codec} {d : Byte} (h : c.decState = .delim) (hd : d ≠ 0x7E) :
    c.decMove d = some (c.endInError .framing, .framing) := by
  simp only [Codec.decMove, h, Codec.takeDelim]
  exact congrArg some (if_neg hd)

theorem Codec.decMove_of_len0 {c : Codec} (d : Byte) (h : c.decState = .len0) :
    c.decMove d = some ({ c with decLen := lenAfterFirst c.cfgLenbe d, decState := .len1 }, .none) := by
  simp only [Codec.decMove, h, Codec.takeLen0]

theorem Codec.decMove_of_len1 {c : Codec} (d : Byte) (h : c.decState = .len1) :
    c.decMove d = some ({ c with
      decLen := lenAfterSecond c.cfgLenbe c.decLen d,
      decState := if lenAfterSecond c.cfgLenbe c.decLen d = 0 then .csum else .data }, .none) := by
  simp only [Codec.decMove, h, Codec.takeLen1]

theorem Codec.decMove_of_data_marker {c : Codec} (h : c.decState = .data) :
    c.decMove 0x7D = some ({ c with decState := .esc }, .none) := by
  rw [Codec.decMove, h]
  rfl

/-- The byte is taken as the logical byte `v`: as it stands in `D_DATA`, transformed in `D_ESC`
(43_decoder.md R210, R211). -/
def Codec.TakesAs (c : Codec) (d v : Byte) : Prop :=
  (c.decState = .data ∧ d ≠ 0x7D ∧ v = d) ∨ (c.decState = .esc ∧ v = d ^^^ 0x20)

theorem Codec.decMove_of_takesAs {c : Codec} {d v : Byte} (h : c.TakesAs d v) :
    c.decMove d = some (c.append v, .none) := by
  obtain ⟨hs, hd, rfl⟩ | ⟨hs, rfl⟩ := h
  · simp only [Codec.decMove, hs, Codec.takeData]
    exact congrArg some (if_neg hd)
  · rw [Codec.decMove, hs]
    rfl

theorem Codec.decMove_of_csum_good {c : Codec} {d : Byte} (h : c.decState = .csum)
    (hver : csVer c.rxcsSum.toNat d = true) :
    c.decMove d = some ({ c with
      decReceived := d, decExpected := csFin c.rxcsSum, decResult := .success, decState := .idle }, .success) := by
  simp only [Codec.decMove, h, Codec.takeCsum, hver, if_true]

theorem Codec.decMove_of_csum_bad {c : Codec} {d : Byte} (h : c.decState = .csum)
    (hver : csVer c.rxcsSum.toNat d = false) :
    c.decMove d = some ({ c with
      decReceived := d, decExpected := csFin c.rxcsSum, decResult := .checksum, decEstate := .csum,
      decState := .idle }, .checksum) := by
  simp [Codec.decMove, h, Codec.takeCsum, hver, Codec.endInError]

/-- A move from a decoder without an outcome shows its result code in `DEC.result`, and the decoder goes idle exactly if
there is an outcome, which is no timeout (43_decoder.md R206). -/
theorem Codec.decMove_result {c c' : Codec} {d : Byte} {r : DecResult} (hnone : c.decResult = .none)
    (h : c.decMove d = some (c', r)) : c'.decResult = r ∧ r ≠ .timeout ∧ (c'.decState = .idle ↔ r ≠ .none) := by
  rcases c.decMove_cases c' d r h with ⟨-, -, rfl, rfl⟩ | ⟨-, -, rfl, rfl⟩ | ⟨-, rfl, rfl⟩ | ⟨-, rfl, rfl⟩ |
    ⟨-, -, rfl, rfl⟩ | ⟨-, -, rfl, rfl⟩ | ⟨-, rfl, rfl⟩ | ⟨-, -, rfl, rfl⟩ | ⟨-, -, rfl, rfl⟩
  · exact ⟨hnone, nofun, by simp⟩
  · exact ⟨rfl, nofun, by simp⟩
  · exact ⟨hnone, nofun, by simp⟩
  · exact ⟨hnone, nofun, by dsimp only; split <;> simp⟩
  · exact ⟨hnone, nofun, by simp⟩
  · exact ⟨hnone, nofun, by rw [Codec.append_decState]; split <;> simp⟩
  · exact ⟨hnone, nofun, by rw [Codec.append_decState]; split <;> simp⟩
  · exact ⟨rfl, nofun, by simp⟩
  · exact ⟨rfl, nofun, by simp⟩

/-! ### The statements -/

/-- Settles O40: an armed decoder has no outcome, and its move shows the result it answers. -/
theorem decByteTakesOneByteAndAnswersTheResult : Obligations.DecByteTakesOneByteAndAnswersTheResult := by
  unfold Obligations.DecByteTakesOneByteAndAnswersTheResult
  refine ⟨fun d s hidle => ?_, fun d s hinv hbusy => ?_, fun d => mkWord_toNat 0x41 0 d,
    fun w s hop => deliverCommand_of_opCodeD s (by rw [hop]; decide)⟩
  · rw [exec_eq_issue, issue_decByte_of_idle d hidle]
  · obtain ⟨hnone, -⟩ := hinv.decoder.noOutcome hbusy
    obtain ⟨c, r, hmove⟩ := exists_decMove d hbusy
    obtain ⟨rfl, htimeout, hidle⟩ := Codec.decMove_result hnone hmove
    refine ⟨_, exec_decByte_of_decMove hmove, rfl, rfl, ?_, htimeout, hidle⟩
    rw [BitVec.ofNat_toNat]
    rfl

/-- Settles O39: `DEC.START` arms an idle decoder, and `0x40` is an `op` code of format `Z`. -/
theorem decStartArmsTheDecoder : Obligations.DecStartArmsTheDecoder := by
  unfold Obligations.DecStartArmsTheDecoder
  refine ⟨fun s hidle => ?_, fun s hbusy => ?_, rfl, fun w s hop => deliverCommand_of_opCodeZ s (by rw [hop]; decide)⟩
  · rw [exec_eq_issue, issue_decStart_of_idle hidle]
    rfl
  · rw [exec_eq_issue, issue_decStart_of_busy hbusy]

/-- Settles O41: the two edges out of `D_DELIM`. -/
theorem decByteJudgesTheDelimiter : Obligations.DecByteJudgesTheDelimiter := by
  unfold Obligations.DecByteJudgesTheDelimiter
  refine fun d s hs => ⟨fun hd => ?_, fun hd => ?_⟩
  · subst hd
    exact exec_decByte_of_decMove (Codec.decMove_of_delim hs)
  · rw [exec_decByte_of_decMove (Codec.decMove_of_delim_of_ne hs hd), Codec.endInError, hs]
    rfl

/-- Settles O42: the register after each length byte as a number. -/
theorem decByteAssemblesTheLength : Obligations.DecByteAssemblesTheLength := by
  unfold Obligations.DecByteAssemblesTheLength
  refine fun d s => ⟨fun hs => ?_, fun hs => ⟨_, ?_, exec_decByte_of_decMove (Codec.decMove_of_len1 d hs)⟩⟩
  · rw [← toNat_lenAfterFirst, BitVec.ofNat_toNat, BitVec.setWidth_eq]
    exact exec_decByte_of_decMove (Codec.decMove_of_len0 d hs)
  · rw [toNat_lenAfterSecond]
    cases s.codec.cfgLenbe
    · simp [lengthOf, lenFirst, toNat_lowByte, Nat.add_comm]
    · simp [lengthOf, lenFirst, toNat_highByte]

/-- Settles O43: the marker moves to `D_ESC`; every other byte is appended as its logical byte. -/
theorem decByteAppendsTheLogicalByte : Obligations.DecByteAppendsTheLogicalByte := by
  unfold Obligations.DecByteAppendsTheLogicalByte
  refine fun d s => ⟨fun hs hd => ?_, fun v hv => ?_⟩
  · subst hd
    exact exec_decByte_of_decMove (Codec.decMove_of_data_marker hs)
  · refine ⟨_, exec_decByte_of_decMove (Codec.decMove_of_takesAs hv), ?_, ?_, fun a ha => ?_⟩
    · rw [← csAdd_eq_ofNat, ← succ_eq_ofNat]
      rfl
    · exact (Codec.readRx_append _ v _).trans (if_pos rfl)
    · exact (Codec.readRx_append _ v a).trans (if_neg ha)

/-- Settles O44: the two edges out of `D_CSUM`. -/
theorem decByteValidatesTheChecksum : Obligations.DecByteValidatesTheChecksum := by
  unfold Obligations.DecByteValidatesTheChecksum
  intro d s hs
  rw [← csFin_eq_ofNat]
  refine ⟨fun hsum => ?_, fun hsum => ?_⟩
  · exact exec_decByte_of_decMove (Codec.decMove_of_csum_good hs ((csVer_eq_true _ d).mpr hsum))
  · have hver := eq_false_of_ne_true (mt (csVer_eq_true _ d).mp hsum)
    exact exec_decByte_of_decMove (Codec.decMove_of_csum_bad hs hver)

/-- Settles O45: the state waited in is saved, and `0x42` is an `op` code of format `Z`. -/
theorem decTimeoutEndsTheDecode : Obligations.DecTimeoutEndsTheDecode := by
  unfold Obligations.DecTimeoutEndsTheDecode
  refine ⟨fun s hbusy => ?_, fun s hidle => ?_, rfl,
    fun w s hop => deliverCommand_of_opCodeZ s (by rw [hop]; decide)⟩
  · rw [exec_eq_issue, issue_decTimeout_of_busy hbusy]
    rfl
  · rw [exec_eq_issue, issue_decTimeout_of_idle hidle]

end Sys2Proof.Machine
end

section
/-! PROOFS. The decode of a whole stream (43_decoder.md R216): what the payload loop takes, how a decode can end, a stream
whose payload field is stuffed; and the statements of R218, R222 and R224. -/

namespace Sys2Proof.Machine

/-! ### From the payload field on -/

/-- The rest of a decode from the payload field on: `q` has been taken, `n` logical bytes are still to come, then the
checksum byte (43_decoder.md R216). -/
def decodeTail (q : List Byte) (n : Nat) (w : List Byte) : DecodeOutcome × List Byte :=
  match takePayload n w with
  | .error waiting => (.timeoutError waiting, [])
  | .ok (q', rest) => validate (q ++ q') rest

theorem decodeTail_of_error {n : Nat} {w : List Byte} {waiting : DecState} (q : List Byte)
    (h : takePayload n w = .error waiting) : decodeTail q n w = (.timeoutError waiting, []) := by
  rw [decodeTail, h]

theorem decodeTail_of_ok {n : Nat} {w q' rest : List Byte} (q : List Byte) (h : takePayload n w = .ok (q', rest)) :
    decodeTail q n w = validate (q ++ q') rest := by
  rw [decodeTail, h]

theorem decodeTail_zero (q w : List Byte) : decodeTail q 0 w = validate q w := by
  rw [decodeTail_of_ok q rfl, List.append_nil]

/-- Where the payload loop takes `b` first, `b` joins what has been taken. -/
theorem decodeTail_of_takes_first {n m : Nat} {w w' : List Byte} {b : Byte} (q : List Byte)
    (h : takePayload n w = (takePayload m w').map fun r => (b :: r.1, r.2)) :
    decodeTail q n w = decodeTail (q ++ [b]) m w' := by
  cases hrest : takePayload m w' with
  | error waiting =>
    rw [hrest] at h
    rw [decodeTail_of_error _ h, decodeTail_of_error _ hrest]
  | ok r =>
    rw [hrest] at h
    rw [decodeTail_of_ok _ h, decodeTail_of_ok _ hrest, List.append_assoc, List.singleton_append]

/-- A payload byte that is not the marker stands for itself. -/
theorem decodeTail_byte {b : Byte} (hb : b ≠ 0x7D) (q : List Byte) (n : Nat) (w : List Byte) :
    decodeTail q (n + 1) (b :: w) = decodeTail (q ++ [b]) n w :=
  decodeTail_of_takes_first q (if_neg hb)

/-- The marker and any byte after it stand for one logical byte. -/
theorem decodeTail_escape (q : List Byte) (n : Nat) (e : Byte) (w : List Byte) :
    decodeTail q (n + 1) (0x7D :: e :: w) = decodeTail (q ++ [x20 e]) n w :=
  decodeTail_of_takes_first q rfl

theorem decodeTail_stuff1 (q : List Byte) (n : Nat) (b : Byte) (w : List Byte) :
    decodeTail q (n + 1) (stuff1 b ++ w) = decodeTail (q ++ [b]) n w := by
  by_cases hb : reserved b = true
  · have hpair := decodeTail_escape q n (x20 b) w
    rw [x20_involutive b] at hpair
    rw [stuff1_of_reserved hb]
    exact hpair
  · have hne : b ≠ 0x7D := fun h => hb (h ▸ rfl)
    rw [stuff1_of_not_reserved hb]
    exact decodeTail_byte hne q n w

/-- A stuffed payload is taken as the payload. -/
theorem decodeTail_stuff (p q : List Byte) (n : Nat) (w : List Byte) :
    decodeTail q (p.length + n) (stuff p ++ w) = decodeTail (q ++ p) n w := by
  induction p generalizing q with
  | nil => rw [List.length_nil, Nat.zero_add, List.append_nil]; rfl
  | cons b p ih =>
    rw [List.length_cons, Nat.add_right_comm, stuff, List.append_assoc, decodeTail_stuff1, ih, List.append_assoc,
      List.singleton_append]

/-- With the last byte of a stuffed payload the checksum byte is reached. -/
theorem decodeTail_stuff_all (p q w : List Byte) : decodeTail q p.length (stuff p ++ w) = validate (q ++ p) w :=
  (decodeTail_stuff p q 0 w).trans (decodeTail_zero _ w)

theorem exists_ok_of_map_cons {x : Except DecState (List Byte × List Byte)} {b : Byte} {q rest : List Byte}
    (h : x.map (fun r => (b :: r.1, r.2)) = .ok (q, rest)) : ∃ q', x = .ok (q', rest) ∧ q = b :: q' := by
  cases x with
  | error waiting => cases h
  | ok r => cases h; exact ⟨r.1, rfl, rfl⟩

/-- The payload loop takes `n` logical bytes, each of one or two wire bytes. -/
theorem takePayload_ok_length {n : Nat} {w q rest : List Byte} (h : takePayload n w = .ok (q, rest)) :
    q.length = n ∧ rest.length + n ≤ w.length ∧ w.length ≤ rest.length + 2 * n := by
  fun_induction takePayload n w generalizing q rest with
  | case1 w => cases h; simp
  | case2 n | case3 n => cases h
  | case4 n e w ih | case5 n b w hb ih =>
    obtain ⟨q', hrest, rfl⟩ := exists_ok_of_map_cons h
    obtain ⟨hq, hlow, hhigh⟩ := ih hrest
    simp only [List.length_cons]
    omega

/-! ### The checksum byte -/

/-- The checksum byte validates exactly if it is the checksum of the payload taken (40_checksum.md R140). -/
theorem validate_cons (q : List Byte) (c : Byte) (left : List Byte) :
    validate q (c :: left) = (if c = cks q then .success q else .checksumError (cks q) c, left) := by
  have hiff : (payloadSum q + c.toNat) % 256 = 0xFF ↔ c = cks q := by
    have hc := c.isLt
    rw [← BitVec.toNat_inj, cks_toNat]
    omega
  simp only [validate, hiff]
  split <;> rfl

theorem validate_cks (q left : List Byte) : validate q (cks q :: left) = (.success q, left) := by
  rw [validate_cons, if_pos rfl]

theorem validate_of_ne {q : List Byte} {c : Byte} (left : List Byte) (h : c ≠ cks q) :
    validate q (c :: left) = (.checksumError (cks q) c, left) := by
  rw [validate_cons, if_neg h]

/-- One payload byte exchanged for another changes the checksum (40_checksum.md R140). -/
theorem cks_set_ne {p : List Byte} {k : Nat} {y : Byte} (h : k < p.length) (hy : y ≠ p[k]) : cks (p.set k y) ≠ cks p := by
  intro heq
  obtain ⟨hcomplete, -⟩ := sumAndChecksumComplete
  obtain ⟨-, hcaught⟩ := verifyAcceptsExactlyTheFinalizedByte
  have hgood := (csVer_eq_true _ _).mpr (hcomplete (p.set k y))
  rw [heq] at hgood
  exact ne_true_of_eq_false (hcaught p k y h hy) hgood

/-! ### The header -/

theorem decodeStream_of_ne {b : Byte} (w : List Byte) (o : Bool) (h : b ≠ 0x7E) :
    decodeStream (b :: w) o = (.framingError, w) := if_pos h

theorem decodeStream_of_length (l0 l1 : Byte) (w : List Byte) (o : Bool) :
    decodeStream (0x7E :: l0 :: l1 :: w) o = decodeTail [] (lengthOf o l0 l1) w := rfl

/-- The two length bytes of a frame give its length back (30_encoding.md R91). -/
theorem decodeStream_lenBytes {n : Nat} (hn : n ≤ Config.payloadMax) (w : List Byte) (o : Bool) :
    decodeStream ([0x7E] ++ (lenBytes n o ++ w)) o = decodeTail [] n w := by
  unfold Config.payloadMax at hn
  have hlow : (BitVec.ofNat 8 n).toNat = n % 256 := BitVec.toNat_ofNat n 8
  have hhigh : (BitVec.ofNat 8 (n / 256)).toNat = n / 256 % 256 := BitVec.toNat_ofNat _ 8
  cases o
  · have hlen : lengthOf false (BitVec.ofNat 8 n) (BitVec.ofNat 8 (n / 256)) = n := by
      rw [lengthOf, if_neg nofun, hlow, hhigh]
      omega
    exact (decodeStream_of_length _ _ w false).trans (by rw [hlen])
  · have hlen : lengthOf true (BitVec.ofNat 8 (n / 256)) (BitVec.ofNat 8 n) = n := by
      rw [lengthOf, if_pos rfl, hlow, hhigh]
      omega
    exact (decodeStream_of_length _ _ w true).trans (by rw [hlen])

theorem lengthOf_le (o : Bool) (l0 l1 : Byte) : lengthOf o l0 l1 ≤ Config.payloadMax := by
  have h0 := l0.isLt
  have h1 := l1.isLt
  unfold lengthOf Config.payloadMax
  split <;> omega

/-- A stream with a stuffed payload is decoded to the payload, up to the checksum byte. -/
theorem decodeStream_stuff {p : List Byte} (hp : p.length ≤ Config.payloadMax) (rest : List Byte) (o : Bool) :
    decodeStream ([0x7E] ++ lenBytes p.length o ++ stuff p ++ rest) o = validate p rest := by
  simp only [List.append_assoc, decodeStream_lenBytes hp]
  exact decodeTail_stuff_all p [] rest

/-- The same where the wire bytes of the payload byte at `k` are replaced by bytes that are taken as `y`. -/
theorem decodeStream_replaced {p ws : List Byte} {k : Nat} {y : Byte} (hp : p.length ≤ Config.payloadMax)
    (hk : k < p.length) (hws : ∀ q n w, decodeTail q (n + 1) (ws ++ w) = decodeTail (q ++ [y]) n w) (rest : List Byte)
    (o : Bool) :
    decodeStream ([0x7E] ++ lenBytes p.length o ++ stuff (p.take k) ++ ws ++ stuff (p.drop (k + 1)) ++ rest) o =
      validate (p.set k y) rest := by
  have hlen : p.length = (p.take k).length + ((p.drop (k + 1)).length + 1) := by
    rw [List.length_take, List.length_drop]
    omega
  simp only [List.append_assoc, decodeStream_lenBytes hp]
  rw [hlen, decodeTail_stuff, hws, decodeTail_stuff_all, List.nil_append, List.append_assoc,
    List.singleton_append, ← List.set_eq_take_cons_drop y hk]

/-- Such a stream with the checksum of the payload ends in `ChecksumError`, if `y` is another byte than that at `k`. -/
theorem decodeStream_replaced_caught {p ws : List Byte} {k : Nat} {y : Byte} (hp : p.length ≤ Config.payloadMax)
    (hk : k < p.length) (hws : ∀ q n w, decodeTail q (n + 1) (ws ++ w) = decodeTail (q ++ [y]) n w) (hy : y ≠ p[k])
    (o : Bool) :
    ∃ e, e ≠ cks p ∧
      decodeStream ([0x7E] ++ lenBytes p.length o ++ stuff (p.take k) ++ ws ++ stuff (p.drop (k + 1)) ++ [cks p]) o =
        (.checksumError e (cks p), []) := by
  have hne := cks_set_ne hk hy
  exact ⟨_, hne, (decodeStream_replaced hp hk hws _ o).trans (validate_of_ne [] hne.symm)⟩

/-! ### How a decode ends -/

/-- Every decode ends in one of three ways: at a byte that is no delimiter, with the stream used up, or at the checksum
byte behind a payload taken whole. -/
theorem decodeStream_cases (w : List Byte) (o : Bool) :
    (∃ b w1, w = b :: w1 ∧ decodeStream w o = (.framingError, w1)) ∨
    (∃ waiting, decodeStream w o = (.timeoutError waiting, [])) ∨
    (∃ l0 l1 w3 q c left, w = 0x7E :: l0 :: l1 :: w3 ∧ takePayload (lengthOf o l0 l1) w3 = .ok (q, c :: left) ∧
      decodeStream w o = validate q (c :: left)) := by
  match w with
  | [] => exact .inr (.inl ⟨.delim, rfl⟩)
  | b :: w1 =>
    by_cases hb : b = 0x7E
    · subst hb
      match w1 with
      | [] => exact .inr (.inl ⟨.len0, rfl⟩)
      | [l0] => exact .inr (.inl ⟨.len1, rfl⟩)
      | l0 :: l1 :: w3 =>
        rw [decodeStream_of_length]
        cases htake : takePayload (lengthOf o l0 l1) w3 with
        | error waiting => exact .inr (.inl ⟨waiting, decodeTail_of_error [] htake⟩)
        | ok r =>
          obtain ⟨q, _ | ⟨c, left⟩⟩ := r
          · exact .inr (.inl ⟨.csum, decodeTail_of_ok [] htake⟩)
          · exact .inr (.inr ⟨l0, l1, w3, q, c, left, rfl, htake, decodeTail_of_ok [] htake⟩)
    · exact .inl ⟨b, w1, rfl, decodeStream_of_ne w1 o hb⟩

/-! ### The statements -/

/-- Settles O49: the header gives the length, the stuffed payload is taken as the payload, and its checksum validates. -/
theorem decodeOfEncodeIsThePayload : Obligations.DecodeOfEncodeIsThePayload := by
  unfold Obligations.DecodeOfEncodeIsThePayload
  intro p rest o hp
  rw [encodeFrame, List.append_assoc _ [cks p], decodeStream_stuff hp]
  exact validate_cks p rest

/-- Settles O51: each replaced byte is taken as another logical byte, which moves the checksum; a replaced checksum byte
is compared with that of the payload. -/
theorem oneChangedWireByteIsCaught : Obligations.OneChangedWireByteIsCaught := by
  unfold Obligations.OneChangedWireByteIsCaught
  refine ⟨fun p o k z hk hp _ hz => ?_, fun p o k z hk hp _ hz hmarker => ?_, fun p o c hp hc => ?_,
    fun b rest o hb => decodeStream_of_ne rest o hb⟩
  · have hy : x20 z ≠ p[k] := fun h => hz (h ▸ (x20_involutive z).symm)
    exact decodeStream_replaced_caught hp hk (fun q n w => decodeTail_escape q n z w) hy o
  · exact decodeStream_replaced_caught hp hk (fun q n w => decodeTail_byte hmarker q n w) hz o
  · rw [decodeStream_stuff hp]
    exact validate_of_ne [] hc

/-- Settles O52: what is left of the stream, by the way the decode ends. -/
theorem bytesConsumedByOutcome : Obligations.BytesConsumedByOutcome := by
  unfold Obligations.BytesConsumedByOutcome
  intro w o
  obtain ⟨b, w1, rfl, hend⟩ | ⟨waiting, hend⟩ | ⟨l0, l1, w3, q, c, left, rfl, htake, hend⟩ := decodeStream_cases w o
  · simp [decodeConsumed, hend]
  · simp [decodeConsumed, hend]
  · obtain ⟨hq, hlow, hhigh⟩ := takePayload_ok_length htake
    have hmax := lengthOf_le o l0 l1
    by_cases hc : c = cks q
    · subst hc
      rw [validate_cks] at hend
      simp only [decodeConsumed, hend, List.length_cons] at hlow hhigh ⊢
      omega
    · rw [validate_of_ne left hc] at hend
      simp only [decodeConsumed, hend, List.length_cons] at hlow hhigh ⊢
      exact ⟨Ne.symm hc, by omega, by omega⟩

end Sys2Proof.Machine
end

section
/-! PROOFS. The FrameDecoder (43_decoder.md), stream by stream: what the decode of the bytes to come gives from each
state, the pseudo-operation `DECODE`, and the statements of R217 and of the round trip through the machine (R218). -/

namespace Sys2Proof.Machine

/-! ### The outcome a block shows -/

/-- The outcome in the registers; meant of a block that has one, where `DEC.result` is not `R_NONE`
(43_decoder.md R217). -/
def Codec.shown (c : Codec) : DecodeOutcome :=
  match c.decResult with
  | .success => .success (c.rxPayload c.decLen.toNat)
  | .checksum => .checksumError c.decExpected c.decReceived
  | .framing => .framingError
  | .timeout | .none => .timeoutError c.decEstate

/-- When the whole payload is counted the accumulator finalizes to its checksum (43_decoder.md R221 (f)). -/
theorem DecoderInv.csFin_rxcsSum {c : Codec} (h : DecoderInv c) (hcnt : c.decCnt = c.decLen) :
    csFin c.rxcsSum = cks (c.rxPayload c.decLen.toNat) := by
  rw [cks_eq_csFin_sum8, ← hcnt, ← h.sum]

theorem DecoderInv.shows_shown {c : Codec} (h : DecoderInv c) (hresult : c.decResult ≠ .none) : c.shows c.shown := by
  unfold Codec.shown
  cases hr : c.decResult with
  | none => exact absurd hr hresult
  | success =>
    obtain ⟨heq, hreceived, hcnt, hestate⟩ := h.success hr
    have hcks := hreceived.trans (h.csFin_rxcsSum hcnt)
    exact ⟨hr, hestate, by simp [heq, hcks], by simp [hcks], by simp, by simp⟩
  | checksum =>
    obtain ⟨hestate, -⟩ := h.checksum_error hr
    exact ⟨hr, hestate, rfl, rfl⟩
  | framing =>
    obtain ⟨hestate, -, hexpected, hreceived⟩ := h.framing hr
    exact ⟨hr, hestate, hexpected, hreceived⟩
  | timeout =>
    obtain ⟨-, hexpected, hreceived⟩ := h.timeout hr
    exact ⟨hr, rfl, hexpected, hreceived⟩

/-! ### The decode of the bytes to come -/

/-- What the rest of a decode gives while the payload is counted, and at the checksum byte. -/
def Codec.decodePayload (c : Codec) (w : List Byte) : DecodeOutcome × List Byte :=
  decodeTail (c.rxPayload c.decCnt.toNat) (c.decLen.toNat - c.decCnt.toNat) w

/-- What `decode` (43_decoder.md R216) gives of a frame whose bytes up to now have brought the decoder to this state, if
the bytes `w` come next; an idle decoder has taken its last byte and shows the outcome. -/
def Codec.decodeRest (c : Codec) (w : List Byte) : DecodeOutcome × List Byte :=
  match c.decState with
  | .idle => (c.shown, w)
  | .delim => decodeStream w c.cfgLenbe
  | .len0 => decodeStream (0x7E :: w) c.cfgLenbe
  | .len1 => decodeStream (0x7E :: lenFirst c.cfgLenbe c.decLen :: w) c.cfgLenbe
  | .data | .csum => c.decodePayload w
  | .esc => c.decodePayload (0x7D :: w)

theorem Codec.decodeRest_of_idle {c : Codec} (h : c.decState = .idle) (w : List Byte) :
    c.decodeRest w = (c.shown, w) := by
  rw [Codec.decodeRest, h]

theorem Codec.decodeRest_of_delim {c : Codec} (h : c.decState = .delim) (w : List Byte) :
    c.decodeRest w = decodeStream w c.cfgLenbe := by
  rw [Codec.decodeRest, h]

theorem Codec.decodeRest_of_len0 {c : Codec} (h : c.decState = .len0) (w : List Byte) :
    c.decodeRest w = decodeStream (0x7E :: w) c.cfgLenbe := by
  rw [Codec.decodeRest, h]

theorem Codec.decodeRest_of_len1 {c : Codec} (h : c.decState = .len1) (w : List Byte) :
    c.decodeRest w = decodeStream (0x7E :: lenFirst c.cfgLenbe c.decLen :: w) c.cfgLenbe := by
  rw [Codec.decodeRest, h]

theorem Codec.decodeRest_of_data_or_csum {c : Codec} (h : c.decState = .csum ∨ c.decState = .data) (w : List Byte) :
    c.decodeRest w = c.decodePayload w := by
  obtain h | h := h <;> rw [Codec.decodeRest, h]

theorem Codec.decodeRest_of_esc {c : Codec} (h : c.decState = .esc) (w : List Byte) :
    c.decodeRest w = c.decodePayload (0x7D :: w) := by
  rw [Codec.decodeRest, h]

/-- Where the whole payload is counted the checksum byte is next. -/
theorem Codec.decodePayload_of_eq {c : Codec} (h : c.decCnt = c.decLen) (w : List Byte) :
    c.decodePayload w = validate (c.rxPayload c.decLen.toNat) w := by
  rw [Codec.decodePayload, h, Nat.sub_self, decodeTail_zero]

/-- Bytes that are taken as `v` are the next logical byte. -/
theorem Codec.decodePayload_append {c : Codec} {v : Byte} {w w' : List Byte} (hlt : c.decCnt.toNat < c.decLen.toNat)
    (hv : ∀ q n, decodeTail q (n + 1) w = decodeTail (q ++ [v]) n w') :
    c.decodePayload w = (c.append v).decodePayload w' := by
  have hleft : c.decLen.toNat - c.decCnt.toNat = c.decLen.toNat - (c.decCnt.toNat + 1) + 1 := by omega
  rw [Codec.decodePayload, Codec.decodePayload, Codec.append_decCnt, Codec.append_decLen, toNat_succ_of_lt hlt,
    Codec.rxPayload_append, hleft, hv]

/-- The decoder's move is one byte of the whole-stream `decode` (43_decoder.md R217): the split is the edges of its
table. -/
theorem DecoderInv.decodeRest_of_decMove {c c' : Codec} {d : Byte} {r : DecResult} (h : DecoderInv c)
    (hmove : c.decMove d = some (c', r)) (w : List Byte) : c'.decodeRest w = c.decodeRest (d :: w) := by
  rcases c.decMove_cases c' d r hmove with ⟨hs, rfl, -, rfl⟩ | ⟨hs, hd, -, rfl⟩ | ⟨hs, -, rfl⟩ | ⟨hs, -, rfl⟩ |
    ⟨hs, rfl, -, rfl⟩ | ⟨hs, hd, -, rfl⟩ | ⟨hs, -, rfl⟩ | ⟨hs, hver, -, rfl⟩ | ⟨hs, hver, -, rfl⟩
  · rw [Codec.decodeRest_of_delim hs]
    rfl
  · rw [Codec.decodeRest_of_delim hs, decodeStream_of_ne w _ hd]
    rfl
  · rw [Codec.decodeRest_of_len0 hs, Codec.decodeRest_of_len1 rfl, lenFirst_lenAfterFirst]
  · obtain ⟨hcnt, -⟩ := h.half_length hs
    rw [Codec.decodeRest_of_len1 hs, decodeStream_of_length, ← toNat_lenAfterSecond,
      Codec.decodeRest_of_data_or_csum (by dsimp only; split <;> simp), Codec.decodePayload]
    simp only [hcnt]
    rfl
  · rw [Codec.decodeRest_of_data_or_csum (.inr hs)]
    rfl
  · rw [Codec.decodeRest_of_data_or_csum (.inr hs),
      Codec.decodeRest_of_data_or_csum (Codec.append_decState_eq_csum_or_data c d)]
    exact (Codec.decodePayload_append (h.payload (.inl hs)) fun q n => decodeTail_byte hd q n w).symm
  · rw [Codec.decodeRest_of_esc hs,
      Codec.decodeRest_of_data_or_csum (Codec.append_decState_eq_csum_or_data c (x20 d))]
    exact (Codec.decodePayload_append (h.payload (.inr hs)) fun q n => decodeTail_escape q n d w).symm
  · have hcks := h.csFin_rxcsSum (h.checksum hs)
    have hd := ((csVer_sum_eq_true_iff _ d).mp hver).trans hcks
    rw [Codec.decodeRest_of_data_or_csum (.inl hs), Codec.decodePayload_of_eq (h.checksum hs), hd, validate_cks]
    rfl
  · have hcks := h.csFin_rxcsSum (h.checksum hs)
    have hd : d ≠ cks (c.rxPayload c.decLen.toNat) := fun heq =>
      ne_true_of_eq_false hver ((csVer_sum_eq_true_iff _ d).mpr (heq.trans hcks.symm))
    rw [Codec.decodeRest_of_data_or_csum (.inl hs), Codec.decodePayload_of_eq (h.checksum hs), validate_of_ne w hd,
      ← hcks]
    rfl

/-- A stream that ends here ends the decode in `TimeoutError`, in the state waited in (43_decoder.md R214). -/
theorem DecoderInv.decodeRest_nil {c : Codec} (h : DecoderInv c) (hbusy : c.decState ≠ .idle) :
    c.decodeRest [] = (.timeoutError c.decState, []) := by
  cases hs : c.decState with
  | idle => exact absurd hs hbusy
  | delim => exact Codec.decodeRest_of_delim hs []
  | len0 => exact Codec.decodeRest_of_len0 hs []
  | len1 => exact Codec.decodeRest_of_len1 hs []
  | data =>
    obtain ⟨n, hn⟩ := Nat.exists_eq_succ_of_ne_zero (Nat.sub_ne_zero_of_lt (h.payload (.inl hs)))
    rw [Codec.decodeRest_of_data_or_csum (.inr hs), Codec.decodePayload, hn]
    rfl
  | esc =>
    obtain ⟨n, hn⟩ := Nat.exists_eq_succ_of_ne_zero (Nat.sub_ne_zero_of_lt (h.payload (.inr hs)))
    rw [Codec.decodeRest_of_esc hs, Codec.decodePayload, hn]
    rfl
  | csum =>
    rw [Codec.decodeRest_of_data_or_csum (.inl hs), Codec.decodePayload_of_eq (h.checksum hs)]
    rfl

/-! ### From one state to a later one of the same decode -/

/-- From `t` to `u` the decoder has taken the bytes `took` off the receive wire, and the same decode goes on with `left`:
an idle `u` has an outcome, and nothing changes but what the decoder owns. -/
structure Takes (took left : List Byte) (t u : State) : Prop where
  inv : DecoderInv u.codec
  outcome : u.codec.decState = .idle → u.codec.decResult ≠ .none
  rest : u.codec.decodeRest left = t.codec.decodeRest (took ++ left)
  rxWire : u.rxWire = t.rxWire ++ took
  txWire : u.txWire = t.txWire
  frame : t.codec.ChangesOnly decoderFields u.codec

theorem Codec.ChangesOnly.trans {fs : List Field} {c c' c'' : Codec} (h : c.ChangesOnly fs c')
    (h' : c'.ChangesOnly fs c'') : c.ChangesOnly fs c'' := fun f hf => Field.same_trans (h f hf) (h' f hf)

theorem Codec.ChangesOnly.mono {fs gs : List Field} {c c' : Codec} (h : c.ChangesOnly fs c')
    (hsub : ∀ f ∈ fs, f ∈ gs) : c.ChangesOnly gs c' := fun f hf => h f fun hmem => hf (hsub f hmem)

theorem Takes.refl {t : State} (h : DecoderInv t.codec) (hbusy : t.codec.decState ≠ .idle) (left : List Byte) :
    Takes [] left t t where
  inv := h
  outcome := fun hidle => absurd hidle hbusy
  rest := rfl
  rxWire := (List.append_nil _).symm
  txWire := rfl
  frame := .refl _ _

theorem Takes.trans {took took' left : List Byte} {t u v : State} (h : Takes took (took' ++ left) t u)
    (h' : Takes took' left u v) : Takes (took ++ took') left t v where
  inv := h'.inv
  outcome := h'.outcome
  rest := by rw [h'.rest, h.rest, List.append_assoc]
  rxWire := by rw [h'.rxWire, h.rxWire, List.append_assoc]
  txWire := h'.txWire.trans h.txWire
  frame := h.frame.trans h'.frame

theorem Takes.of_decMove {t : State} {d : Byte} {c : Codec} {r : DecResult} (h : DecoderInv t.codec)
    (hmove : t.codec.decMove d = some (c, r)) (left : List Byte) : Takes [d] left t (taken t c d (resultData r)) := by
  obtain ⟨hnone, -⟩ := h.noOutcome (decState_ne_idle_of_decMove hmove)
  obtain ⟨rfl, -, hidle⟩ := Codec.decMove_result hnone hmove
  exact ⟨h.decMove hmove, hidle.mp, h.decodeRest_of_decMove hmove left, rfl, rfl, Codec.changesOnly_of_decMove hmove⟩

theorem Takes.of_timeout {t : State} (h : DecoderInv t.codec) (hbusy : t.codec.decState ≠ .idle) :
    Takes [] [] t (issue .decTimeout t) := by
  rw [issue_decTimeout_of_busy hbusy]
  refine ⟨h.timeout_endInError hbusy, fun _ => nofun, ?_, (List.append_nil _).symm, rfl,
    (Codec.changesOnly_endInError _ .timeout).mono (by decide)⟩
  rw [List.append_nil, h.decodeRest_nil hbusy]
  rfl

/-- The answer data 0 says that there is no result yet. -/
theorem resultData_eq_zero (r : DecResult) : resultData r = 0 ↔ r = .none := by
  cases r <;> decide

/-- `DEC.FEED` takes bytes until the decode ends or the stream does (30_encoding.md R104). -/
theorem decFeed_takes (w : List Byte) {t : State} (h : DecoderInv t.codec) (hbusy : t.codec.decState ≠ .idle) :
    ∃ took left, w = took ++ left ∧ Takes took left t (decFeed w t).1 ∧
      if (decFeed w t).2 then (decFeed w t).1.codec.decState = .idle
      else (decFeed w t).1.codec.decState ≠ .idle ∧ left = [] := by
  induction w generalizing t with
  | nil => exact ⟨[], [], rfl, .refl h hbusy [], hbusy, rfl⟩
  | cons d w ih =>
    obtain ⟨c, r, hmove⟩ := exists_decMove d hbusy
    have hanswer : answer (.decByte d) t = ⟨.ok, resultData r⟩ := by rw [answer_decByte, hmove]; rfl
    have hstep := Takes.of_decMove h hmove
    obtain ⟨hnone, -⟩ := h.noOutcome hbusy
    obtain ⟨-, -, hidle⟩ := Codec.decMove_result hnone hmove
    simp only [decFeed, hanswer, issue_decByte_of_decMove hmove, resultData_eq_zero, true_and]
    by_cases hr : r = .none
    · have hgoes : c.decState ≠ .idle := fun hs => hidle.mp hs hr
      obtain ⟨took, left, rfl, htakes, hend⟩ := ih (t := taken t c d (resultData r)) (h.decMove hmove) hgoes
      rw [if_pos hr]
      exact ⟨d :: took, left, rfl, (hstep _).trans htakes, hend⟩
    · have hdata : (resultData r != 0) = true := bne_iff_ne.mpr (mt (resultData_eq_zero r).mp hr)
      rw [if_neg hr, hdata]
      exact ⟨[d], w, rfl, hstep w, hidle.mpr hr⟩

/-- `DECODE` ends the decode it starts (30_encoding.md R104). -/
theorem decodeWire_takes (w : List Byte) {s : State} (hidle : s.codec.decState = .idle) :
    ∃ took left, w = took ++ left ∧ Takes took left (issue .decStart s) (decodeWire w s) ∧
      (decodeWire w s).codec.decState = .idle := by
  have hstart := issue_decStart_of_idle hidle
  have hinv : DecoderInv (issue .decStart s).codec := hstart ▸ decoderInv_armDecoder _
  have hbusy : (issue .decStart s).codec.decState ≠ .idle := hstart ▸ nofun
  obtain ⟨took, left, hw, htakes, hend⟩ := decFeed_takes w hinv hbusy
  have hwire : decodeWire w s =
    if (decFeed w (issue .decStart s)).2 then (decFeed w (issue .decStart s)).1
    else issue .decTimeout (decFeed w (issue .decStart s)).1 := rfl
  rw [hwire]
  split at hend
  next hended =>
    rw [if_pos hended]
    exact ⟨took, left, hw, htakes, hend⟩
  next hgoes =>
    obtain ⟨hstill, rfl⟩ := hend
    have htimeout := Takes.of_timeout htakes.inv hstill
    rw [if_neg hgoes]
    refine ⟨took ++ [], [], hw.trans (List.append_nil _).symm, htakes.trans htimeout, ?_⟩
    rw [issue_decTimeout_of_busy hstill]
    rfl

/-- What `DECODE` has done when it ends is what `decode` (43_decoder.md R216) says of its stream. -/
theorem decodeWire_outcome (w : List Byte) {s : State} (hidle : s.codec.decState = .idle) :
    ∃ took left, w = took ++ left ∧ Takes took left (issue .decStart s) (decodeWire w s) ∧
      (decodeWire w s).codec.decState = .idle ∧
      decodeStream w s.codec.cfgLenbe = ((decodeWire w s).codec.shown, left) := by
  obtain ⟨took, left, hw, htakes, hdone⟩ := decodeWire_takes w hidle
  refine ⟨took, left, hw, htakes, hdone, ?_⟩
  rw [← Codec.decodeRest_of_idle hdone, htakes.rest, ← hw, issue_decStart_of_idle hidle]
  rfl

/-! ### Reading the payload out (30_encoding.md R104) -/

/-- `RXB.RD` of valid addresses, one after another, answers their bytes in order. -/
theorem issueAll_rxbRd (as : List Half) (s : State) (h : ∀ a ∈ as, s.codec.rxValid a = true) :
    (issueAll (as.map .rxbRd) s).responses =
      s.responses ++ as.map fun a => ⟨.ok, zext (s.codec.readRx a)⟩ := by
  induction as generalizing s with
  | nil => exact (List.append_nil _).symm
  | cons a as ih =>
    obtain ⟨ha, has⟩ := List.forall_mem_cons.mp h
    have hread : issue (.rxbRd a) s = s.respond .ok (zext (s.codec.readRx a)) := by rw [issue_rxbRd, if_pos ha]
    rw [List.map_cons, issueAll, hread, ih (s.respond .ok _) has, State.respond_responses, List.append_assoc]
    rfl

/-- `RXB.DUMP` after a success answers the length and the payload (30_encoding.md R104). -/
theorem issueAll_rxbDump {s : State} (h : s.codec.decResult = .success) :
    (issueAll (rxbDump s) s).responses =
      s.responses ++ ⟨.ok, s.codec.decLen⟩ :: (s.codec.rxPayload s.codec.decLen.toNat).map fun b => ⟨.ok, zext b⟩ := by
  have hlen : issue (.csrRd 0x0007) s = s.respond .ok s.codec.decLen := rfl
  have haddresses : (List.range s.codec.decLen.toNat).map (fun a => Instr.rxbRd (BitVec.ofNat 16 a)) =
      ((List.range s.codec.decLen.toNat).map (BitVec.ofNat 16)).map .rxbRd := by rw [List.map_map]; rfl
  have hvalid : ∀ a ∈ (List.range s.codec.decLen.toNat).map (BitVec.ofNat 16), s.codec.rxValid a = true := by
    intro a ha
    obtain ⟨i, hi, rfl⟩ := List.mem_map.mp ha
    rw [Codec.rxValid_eq_true]
    have hle : (BitVec.ofNat 16 i).toNat ≤ i := Nat.mod_le _ _
    exact ⟨h, hle.trans_lt (List.mem_range.mp hi)⟩
  rw [rxbDump, issueAll, hlen, haddresses, issueAll_rxbRd _ (s.respond .ok _) hvalid, State.respond_responses,
    List.append_assoc, Codec.rxPayload, List.map_map, List.map_map]
  rfl

/-! ### The statements -/

/-- Settles O48: each byte `DECODE` feeds is one byte of the decode of the stream, and so is the timeout at its end. -/
theorem decoderRefinesDecode : Obligations.DecoderRefinesDecode := by
  unfold Obligations.DecoderRefinesDecode
  intro w s hidle
  obtain ⟨took, left, hw, htakes, hdone, hdecode⟩ := decodeWire_outcome w hidle
  have hstart := issue_decStart_of_idle hidle
  have hframe : s.codec.ChangesOnly decoderFields (issue .decStart s).codec :=
    hstart ▸ (Codec.changesOnly_armDecoder _).mono (by decide)
  have hown : ∀ f ∈ .cfg :: .cs0Sum :: encoderFields, f ∉ decoderFields := by decide
  have htook : w.take (decodeConsumed w s.codec.cfgLenbe) = took := by
    rw [decodeConsumed, hdecode, hw, List.length_append, Nat.add_sub_cancel, List.take_left]
  refine ⟨hdone, ?_, ?_, fun f hf => (hframe.trans htakes.frame) f (hown f hf), ?_⟩
  · rw [hdecode]
    exact htakes.inv.shows_shown (htakes.outcome hdone)
  · rw [htook, htakes.rxWire, hstart]
    rfl
  · rw [htakes.txWire, hstart]
    rfl

/-- Settles O50: `ENCODE` puts the frame on the wire, `DECODE` of it shows the payload, and `RXB.DUMP` reads it out. -/
theorem loopBackReturnsThePayload : Obligations.LoopBackReturnsThePayload := by
  unfold Obligations.LoopBackReturnsThePayload
  intro p s hp henc hdec
  obtain ⟨hwire, -, hcfg, hsame, -⟩ := encodePutsTheFrameOnTheWire p s hp henc
  have hidle : (encodePayload p s).codec.decState = .idle := (hsame .decState (by decide)).symm.trans hdec
  have hdecode := decodeOfEncodeIsThePayload p [] s.codec.cfgLenbe hp
  rw [List.append_nil] at hdecode
  obtain ⟨-, hshows, -⟩ := decoderRefinesDecode (encodeFrame p s.codec.cfgLenbe) (encodePayload p s) hidle
  rw [hcfg, hdecode] at hshows
  dsimp only
  rw [hwire, List.drop_left]
  generalize decodeWire (encodeFrame p s.codec.cfgLenbe) (encodePayload p s) = u at hshows ⊢
  obtain ⟨hresult, -, -, -, hlen, hpayload⟩ := hshows
  refine ⟨hresult, ?_⟩
  simp only [issueAll_rxbDump hresult, hlen, hpayload, zext_eq_ofNat]
  rw [← hlen, BitVec.ofNat_toNat, BitVec.setWidth_eq]

end Sys2Proof.Machine
end

section
/-! PROOFS. The buffer operations and the control registers (44_buffer_and_csr.md): the effect of each operation by its
condition, the register file by number, `CFG` values as numbers; and the statements of that chapter. -/

namespace Sys2Proof.Machine

/-! ### The buffer operations (44_buffer_and_csr.md R240, R242) -/

theorem issue_txbWr_of_idle {s : State} (a : Half) (d : Byte) (h : s.codec.encState = .idle) :
    issue (.txbWr a d) s = performed s (s.codec.writeTx a d) 0 := by
  rw [issue_txbWr, if_neg (by simp [h])]
  rfl

theorem issue_txbWr_of_busy {s : State} (a : Half) (d : Byte) (h : s.codec.encState ≠ .idle) :
    issue (.txbWr a d) s = refused s .errBusy := by
  rw [issue_txbWr, if_pos (by simp [h])]
  rfl

theorem issue_rxbRd_of_rxValid {s : State} {a : Half} (h : s.codec.rxValid a = true) :
    issue (.rxbRd a) s = performed s s.codec (zext (s.codec.readRx a)) := by
  rw [issue_rxbRd, if_pos h]
  rfl

theorem issue_rxbRd_of_not_rxValid {s : State} {a : Half} (h : ¬ s.codec.rxValid a = true) :
    issue (.rxbRd a) s = refused s .errNodata := by
  rw [issue_rxbRd, if_neg h]
  rfl

/-! ### The control registers by number (10_state.md R33) -/

theorem csrOfNumber_eq_none {a : Half} (h : 0x000D < a.toNat) : csrOfNumber a = none := by
  unfold csrOfNumber
  split
  case h_15 => rfl
  all_goals omega

/-- Every number up to `0x000D` is that of a register. -/
theorem exists_csrOfNumber_eq_some {a : Half} (h : a.toNat ≤ 0x000D) :
    ∃ r, csrOfNumber a = some r ∧ r.number = a := by
  have hassigned : ∀ n : Fin 14,
      (csrOfNumber (BitVec.ofNat 16 n)).map Csr.number = some (BitVec.ofNat 16 n) := by decide
  have ha := hassigned ⟨a.toNat, Nat.lt_succ_of_le h⟩
  rwa [BitVec.ofNat_toNat, BitVec.setWidth_eq, Option.map_eq_some_iff] at ha

/-- A register shows the value that stands under its number in the register file. -/
theorem getElem?_csrValues_number (c : Codec) (r : Csr) :
    (csrValues c)[r.number.toNat]? = some (c.csrView r).toNat := by
  cases r with
  | cfg => cases h : c.cfgLenbe <;> simp [csrValues, Csr.number, Codec.csrView, verdict, h]
  | cs0Sum | encSum | decSum | decExpected | decReceived | encState | decState | decResult | decEstate =>
    exact congrArg some (BitVec.toNat_setWidth_of_le (by decide)).symm
  | encLen | encCnt | decLen | decCnt => rfl

/-- The file has fourteen values, so a number with a value is that of a register, which shows it. -/
theorem exists_csr_of_getElem?_csrValues {c : Codec} {a : Half} {v : Nat} (h : (csrValues c)[a.toNat]? = some v) :
    ∃ r, csrOfNumber a = some r ∧ c.csrView r = BitVec.ofNat 16 v := by
  obtain ⟨hlt, -⟩ := List.getElem?_eq_some_iff.mp h
  obtain ⟨r, hr, hnumber⟩ := exists_csrOfNumber_eq_some (Nat.le_of_lt_succ hlt)
  rw [← hnumber, getElem?_csrValues_number] at h
  obtain rfl := Option.some.inj h
  exact ⟨r, hr, by rw [BitVec.ofNat_toNat, BitVec.setWidth_eq]⟩

theorem issue_csrRd_of_some {s : State} {a : Half} {r : Csr} (h : csrOfNumber a = some r) :
    issue (.csrRd a) s = performed s s.codec (s.codec.csrView r) := by
  rw [issue_csrRd, h]
  rfl

theorem issue_csrRd_of_none {s : State} {a : Half} (h : csrOfNumber a = none) :
    issue (.csrRd a) s = refused s .errIllegal := by
  rw [issue_csrRd, h]
  rfl

/-! ### Writing `CFG` (10_state.md R34; 44_buffer_and_csr.md R245) -/

theorem csrWriteIllegal_eq_true (a : Half) : csrWriteIllegal a = true ↔ a ≠ 0x0000 := bne_iff_ne

/-- A reserved bit of a `CFG` value is set just where the value is above 1. -/
theorem cfgValueIllegal_eq_true (d : Byte) : cfgValueIllegal d = true ↔ 2 ≤ d.toNat := by
  have hd := d.isLt
  have hzero : (0 : BitVec 7).toNat = 0 := rfl
  rw [cfgValueIllegal, bne_iff_ne, ne_eq, ← BitVec.toNat_inj, BitVec.extractLsb'_toNat, Nat.shiftRight_eq_div_pow,
    hzero]
  omega

/-- Bit 0 of a legal `CFG` value is the value. -/
theorem getLsbD_zero_of_lt_two {d : Byte} (h : d.toNat < 2) : d.getLsbD 0 = decide (d.toNat = 1) := by
  rw [BitVec.getLsbD, Nat.testBit_zero, Nat.mod_eq_of_lt h]

theorem issue_csrWr_of_ne_cfg {a : Half} (d : Byte) (s : State) (h : a ≠ 0x0000) :
    issue (.csrWr a d) s = refused s .errIllegal := by
  rw [issue_csrWr, if_pos ((csrWriteIllegal_eq_true a).mpr h)]
  rfl

theorem issue_csrWr_cfg_of_illegal {d : Byte} (s : State) (h : 2 ≤ d.toNat) :
    issue (.csrWr 0x0000 d) s = refused s .errIllegal := by
  rw [issue_csrWr, if_neg (by decide), if_pos ((cfgValueIllegal_eq_true d).mpr h)]
  rfl

/-- A legal value for `CFG` is refused while either direction is in a frame, and is written otherwise. -/
theorem issue_csrWr_cfg_of_legal {d : Byte} (s : State) (h : d.toNat < 2) :
    issue (.csrWr 0x0000 d) s =
      if s.codec.encBusy || s.codec.decBusy then refused s .errBusy
      else performed s { s.codec with cfgLenbe := decide (d.toNat = 1) } 0 := by
  have hlegal : ¬ cfgValueIllegal d = true := by rw [cfgValueIllegal_eq_true]; omega
  rw [issue_csrWr, if_neg (by decide), if_neg hlegal, getLsbD_zero_of_lt_two h]
  rfl

/-! ### The statements -/

/-- Settles O53: the encoder's state alone decides, and a read after the write tells the address written from others. -/
theorem txbWrStoresOneByte : Obligations.TxbWrStoresOneByte := by
  unfold Obligations.TxbWrStoresOneByte
  refine ⟨fun a d s hidle => ?_, fun a d s hbusy => ?_, fun a d => mkWord_toNat 0x50 a d⟩
  · refine ⟨performed s (s.codec.writeTx a d) 0, ?_, rfl, ?_, fun b hb => ?_⟩
    · rw [exec_eq_issue, issue_txbWr_of_idle a d hidle]
    · exact (s.codec.readTx_writeTx a a d).trans (if_pos rfl)
    · exact (s.codec.readTx_writeTx a b d).trans (if_neg hb)
  · rw [exec_eq_issue, issue_txbWr_of_busy a d hbusy]

/-- Settles O54: the read has no condition, and `0x51` is an `op` code of format `A`. -/
theorem txbRdAnswersTheByte : Obligations.TxbRdAnswersTheByte := by
  unfold Obligations.TxbRdAnswersTheByte
  refine ⟨fun a s => ?_, fun a => mkWord_toNat 0x51 a 0,
    fun w s hop => deliverCommand_of_opCodeA s (by rw [hop]; decide)⟩
  rw [exec_eq_issue, issue_txbRd, zext_eq_ofNat]
  rfl

/-- Settles O56: the two cases are those of `rxValid`, and `0x52` is an `op` code of format `A`. -/
theorem rxbRdShowsOnlyAValidPayload : Obligations.RxbRdShowsOnlyAValidPayload := by
  unfold Obligations.RxbRdShowsOnlyAValidPayload
  refine ⟨fun a s hresult hlt => ?_, fun a s hinvalid => ?_, fun a => mkWord_toNat 0x52 a 0,
    fun w s hop => deliverCommand_of_opCodeA s (by rw [hop]; decide)⟩
  · have hvalid := (s.codec.rxValid_eq_true a).mpr ⟨hresult, hlt⟩
    rw [exec_eq_issue, issue_rxbRd_of_rxValid hvalid, zext_eq_ofNat]
  · have hnot : ¬ s.codec.rxValid a = true := by
      rw [Codec.rxValid_eq_true, not_and_or, not_lt]
      exact hinvalid
    rw [exec_eq_issue, issue_rxbRd_of_not_rxValid hnot]

/-- Settles O58: the register of a number shows its value in the file, and `0x60` is an `op` code of format `A`. -/
theorem csrRdAnswersTheRegister : Obligations.CsrRdAnswersTheRegister := by
  unfold Obligations.CsrRdAnswersTheRegister
  refine ⟨fun a v s hv => ?_, fun a s hlt => ?_, fun a => mkWord_toNat 0x60 a 0,
    fun w s hop => deliverCommand_of_opCodeA s (by rw [hop]; decide)⟩
  · obtain ⟨r, hr, hview⟩ := exists_csr_of_getElem?_csrValues hv
    rw [exec_eq_issue, issue_csrRd_of_some hr, hview]
  · rw [exec_eq_issue, issue_csrRd_of_none (csrOfNumber_eq_none hlt)]

/-- Settles O59: the tests in their order are the number, the value, the two directions. -/
theorem csrWrWritesTheByteOrderWhenIdle : Obligations.CsrWrWritesTheByteOrderWhenIdle := by
  unfold Obligations.CsrWrWritesTheByteOrderWhenIdle
  refine ⟨fun a d s ha => ?_, fun d s hd => ?_, fun d s hd hbusy => ?_, fun d s hd henc hdec => ?_,
    fun a d => mkWord_toNat 0x61 a d⟩
  · rw [exec_eq_issue, issue_csrWr_of_ne_cfg d s ha]
  · rw [exec_eq_issue, issue_csrWr_cfg_of_illegal s hd]
  · rw [exec_eq_issue, issue_csrWr_cfg_of_legal s hd, if_pos (by simpa using hbusy)]
  · rw [exec_eq_issue, issue_csrWr_cfg_of_legal s hd, if_neg (by simp [henc, hdec])]

end Sys2Proof.Machine
end

section
/-! PROOFS. The refusals and the error outcomes: the status of every operation, what a refusal leaves, what an error
outcome saves, and the statements of 60_exceptions.md R263 to R270. -/

namespace Sys2Proof.Machine

/-! ### Refusals (60_exceptions.md R266) -/

/-- However a command is answered, a status other than `OK` leaves the machine as it was but for the response. -/
theorem Answered.refused_of_status_ne_ok {s t : State} (h : Answered s t) :
    ∃ r, t.responses = s.responses ++ [r] ∧ (r.status ≠ .ok → t = refused s r.status) := by
  cases h with
  | refusal st => exact ⟨⟨st, 0⟩, rfl, fun _ => rfl⟩
  | performance | emission | reception => exact ⟨_, rfl, fun hne => absurd rfl hne⟩

/-- Settles O12: of the four ways a command is answered only the refusal has a status other than `OK`. -/
theorem refusalChangesNothing : Obligations.RefusalChangesNothing := by
  unfold Obligations.RefusalChangesNothing
  constructor
  · intro i s t hexec
    obtain rfl : issue i s = t := by simpa [exec_eq_issue] using hexec
    exact (issue_answered i s).refused_of_status_ne_ok
  · intro w s t hdeliver
    obtain rfl : receive (.command w) s = t := by simpa [deliverCommand_eq_receive] using hdeliver
    exact (receive_command_answered w s).refused_of_status_ne_ok

/-! ### The status of an operation (60_exceptions.md R263, R270) -/

theorem wellFormed_csrWr (a : Half) (d : Byte) :
    wellFormed (.csrWr a d) = (!csrWriteIllegal a && !cfgValueIllegal d) := by
  rw [Bool.eq_iff_iff]
  simp [wellFormed, csrWriteIllegal, cfgValueIllegal, csrWritable, cfgValueLegal]

theorem answer_decByte_status (d : Byte) (s : State) :
    (answer (.decByte d) s).status = if s.codec.decState = .idle then .errIdle else .ok := by
  rw [answer_decByte]
  split
  next hidle => simp [(s.codec.decMove_eq_none d).mpr hidle]
  next hbusy =>
    obtain ⟨c', r, hmove⟩ := exists_decMove d hbusy
    simp [hmove]

/-- Settles O13: each operation's refusals in the order of its tests. -/
theorem statusOfEveryOperation : Obligations.StatusOfEveryOperation := by
  unfold Obligations.StatusOfEveryOperation
  intro i s
  cases i <;> simp only [busyRefused, idleRefused, nodataRefused]
  case csReset | csAdd | csFinalize | csVerify | escNeeds | escOut | escIn | txbRd => simp [wellFormed]
  case encStart | txbWr | decStart =>
    simp only [answer_encStart, answer_txbWr, answer_decStart, wellFormed, apply_ite Response.status]
    simp
  case encStep =>
    rw [answer_encStep_status]
    simp [wellFormed]
  case decByte d =>
    rw [answer_decByte_status]
    simp [wellFormed]
  case decTimeout =>
    by_cases hidle : s.codec.decState = .idle <;> simp [answer_decTimeout, hidle, wellFormed]
  case rxbRd a =>
    by_cases hvalid : s.codec.rxValid a = true <;> simp [answer_rxbRd, hvalid, wellFormed]
  case csrRd a =>
    rw [answer_csrRd]
    by_cases hassigned : csrAssigned a
    · obtain ⟨r, hr, -⟩ := exists_csrOfNumber_eq_some hassigned
      simp [hr, wellFormed, hassigned]
    · have hnone := csrOfNumber_eq_none (Nat.lt_of_not_le hassigned)
      simp [hnone, wellFormed, hassigned]
  case csrWr a d =>
    rw [answer_csrWr, wellFormed_csrWr]
    cases csrWriteIllegal a <;> cases cfgValueIllegal d <;> simp [apply_ite Response.status]

/-! ### Error outcomes (60_exceptions.md R265) -/

theorem Codec.append_decState_ne_idle (c : Codec) (v : Byte) : (c.append v).decState ≠ .idle := by
  rcases c.append_decState_eq_csum_or_data v with h | h
  all_goals simp only [h, ne_eq, reduceCtorEq, not_false_eq_true]

/-- Whichever operation ends a decode without a success, the block is left with the error entered and nothing else
changed, but for the two checksum fields, which an error of the checksum fills. -/
theorem issue_error_outcome {i : Instr} {s : State} (hbusy : s.codec.decState ≠ .idle)
    (hidle : (issue i s).codec.decState = .idle) (hfail : (issue i s).codec.decResult ≠ .success) :
    ∃ cause expected received,
      (issue i s).codec =
        Codec.endInError { s.codec with decExpected := expected, decReceived := received } cause ∧
      (cause = .checksum ∨ cause = .framing ∨ cause = .timeout) ∧
      (cause = .checksum → expected = csFin s.codec.rxcsSum ∧ i = .decByte received) := by
  have heffect := issue_effect i s
  generalize issue i s = t at hidle hfail heffect ⊢
  cases heffect with
  | respond | setSum | setOrder | store | startFrame => exact absurd hidle hbusy
  | emit c b hmove =>
    have hframe := Codec.encMove_frame _ _ _ hmove
    exact absurd (by simpa [hframe] using hidle) hbusy
  | arm => simp at hidle
  | timeout => exact ⟨.timeout, _, _, rfl, by simp, nofun⟩
  | take d c r hmove =>
    simp only [State.respond_codec, State.consume_codec, State.setCodec_codec] at hidle hfail ⊢
    rcases Codec.decMove_cases _ _ _ _ hmove with ⟨-, -, -, rfl⟩ | ⟨-, -, -, rfl⟩ | ⟨-, -, rfl⟩ | ⟨-, -, rfl⟩ |
      ⟨-, -, -, rfl⟩ | ⟨-, -, -, rfl⟩ | ⟨-, -, rfl⟩ | ⟨-, -, -, rfl⟩ | ⟨hs, -, -, rfl⟩
    · simp at hidle
    · exact ⟨.framing, _, _, rfl, by simp, nofun⟩
    · simp at hidle
    · dsimp only at hidle
      split at hidle <;> cases hidle
    · simp at hidle
    · exact absurd hidle (s.codec.append_decState_ne_idle d)
    · exact absurd hidle (s.codec.append_decState_ne_idle (x20 d))
    · simp at hfail
    · exact ⟨.checksum, _, d, by simp [Codec.endInError, hs], by simp, fun _ => ⟨rfl, rfl⟩⟩

/-- Settles O46: whatever the cause, an error is entered in one way. -/
theorem errorOutcomeSavesItsStateAndDiscardsTheFrame : Obligations.ErrorOutcomeSavesItsStateAndDiscardsTheFrame := by
  unfold Obligations.ErrorOutcomeSavesItsStateAndDiscardsTheFrame
  intro i s t hexec hbusy hidle hfail
  obtain rfl : issue i s = t := by simpa [exec_eq_issue] using hexec
  obtain ⟨cause, expected, received, hcodec, hcause, hchecksum⟩ := issue_error_outcome hbusy hidle hfail
  have hrefused (a : Half) : exec (.rxbRd a) (issue i s) = .next (refused (issue i s) .errNodata) := by
    rw [exec_eq_issue, issue_rxbRd_of_not_rxValid]
    exact fun hvalid => hfail ((Codec.rxValid_eq_true _ a).mp hvalid).1
  have hkept : ∀ f ∈ .cfg :: .cs0Sum :: encoderFields, f.same s.codec (issue i s).codec := by
    simp [hcodec, encoderFields, Field.same, Codec.readTx]
  rw [hcodec] at hkept ⊢
  exact ⟨hcause, rfl, rfl, rfl, rfl, fun _ => rfl, hkept, hchecksum, hrefused⟩

end Sys2Proof.Machine
end

section
/-! PROOFS. Operations that do not meet in the table of 10_state.md R23 do not see each other: what an operation leaves in
a field depends on that field and on the fields it reads; and the statements of 60_exceptions.md R281. -/

namespace Sys2Proof.Machine

/-! ### Two states of the block with the same data in a column -/

/-- Two states of the block hold the same data in a column of 10_state.md R23: they agree on it, and a buffer has the same
locations written. -/
def Field.identical : Field → Codec → Codec → Prop
  | .txbuf, c, c' => c.txbuf = c'.txbuf
  | .rxbuf, c, c' => c.rxbuf = c'.rxbuf
  | f, c, c' => f.same c c'

theorem Field.identical_refl (f : Field) (c : Codec) : f.identical c c := by
  cases f with
  | decExpectedReceived => exact ⟨rfl, rfl⟩
  | _ => rfl

theorem Field.identical.symm {f : Field} {c c' : Codec} (h : f.identical c c') : f.identical c' c := by
  cases f with
  | decExpectedReceived => exact ⟨h.1.symm, h.2.symm⟩
  | _ => exact Eq.symm h

theorem Field.identical.trans {f : Field} {c c' c'' : Codec} (h : f.identical c c') (h' : f.identical c' c'') :
    f.identical c c'' := by
  cases f with
  | decExpectedReceived => exact ⟨h.1.trans h'.1, h.2.trans h'.2⟩
  | _ => exact Eq.trans h h'

theorem Field.identical.same {f : Field} {c c' : Codec} (h : f.identical c c') : f.same c c' := by
  cases f with
  | txbuf => exact Codec.readTx_congr c c' h
  | rxbuf => exact Codec.readRx_congr c c' h
  | _ => exact h

/-- The columns are the whole block. -/
theorem Codec.eq_of_identical {c c' : Codec} (h : ∀ f : Field, f.identical c c') : c = c' := by
  have hchecksum := h .decExpectedReceived
  rw [Codec.mk.injEq]
  exact ⟨h .cfg, h .cs0Sum, h .encState, h .encLen, h .encCnt, h .txcsSum, h .encHold, h .decState, h .decLen,
    h .decCnt, h .rxcsSum, h .decResult, hchecksum.1, hchecksum.2, h .decEstate, h .txbuf, h .rxbuf⟩

/-! ### What an operation does not write it keeps -/

/-- Only `TXB.WR` stores into `TXBUF`. -/
theorem issue_txbuf {i : Instr} (s : State) (h : ∀ a d, i ≠ .txbWr a d) :
    (issue i s).codec.txbuf = s.codec.txbuf := by
  have heffect := issue_effect i s
  generalize issue i s = t at heffect ⊢
  cases heffect with
  | store a d => exact absurd rfl (h a d)
  | emit c b hmove => simp [Codec.encMove_frame _ _ _ hmove]
  | take d c r hmove => simp [Codec.decMove_frame _ _ _ _ hmove]
  | _ => rfl

/-- Only `DEC.BYTE` stores into `RXBUF`. -/
theorem issue_rxbuf {i : Instr} (s : State) (h : ∀ d, i ≠ .decByte d) : (issue i s).codec.rxbuf = s.codec.rxbuf := by
  have heffect := issue_effect i s
  generalize issue i s = t at heffect ⊢
  cases heffect with
  | take d => exact absurd rfl (h d)
  | emit c b hmove => simp [Codec.encMove_frame _ _ _ hmove]
  | _ => rfl

theorem issue_keeps {i : Instr} {f : Field} (s : State) (hf : f ∉ writes i) :
    f.identical s.codec (issue i s).codec := by
  have hsame := issue_changesOnly_writes i s f hf
  cases f with
  | txbuf => exact (issue_txbuf s fun a d hi => hf (by simp [hi, writes])).symm
  | rxbuf => exact (issue_rxbuf s fun d hi => hf (by simp [hi, writes])).symm
  | _ => exact hsame

/-! ### What an operation writes depends on what it reads -/

theorem Field.identical.setEncState {f : Field} {c c' : Codec} {x x' : EncState} (h : f.identical c c')
    (hx : x = x') : f.identical { c with encState := x } { c' with encState := x' } := by
  cases f with
  | encState => exact hx
  | _ => exact h

theorem Field.identical.setDecState {f : Field} {c c' : Codec} {x x' : DecState} (h : f.identical c c')
    (hx : x = x') : f.identical { c with decState := x } { c' with decState := x' } := by
  cases f with
  | decState => exact hx
  | _ => exact h

theorem Field.identical.setLength {f : Field} {c c' : Codec} {n n' : Half} {x x' : DecState} (h : f.identical c c')
    (hn : n = n') (hx : x = x') :
    f.identical { c with decLen := n, decState := x } { c' with decLen := n', decState := x' } := by
  cases f with
  | decLen => exact hn
  | decState => exact hx
  | _ => exact h

theorem Field.identical.endInError {f : Field} {c c' : Codec} (h : f.identical c c')
    (hstate : c.decState = c'.decState) (cause : DecResult) : f.identical (c.endInError cause) (c'.endInError cause) := by
  cases f with
  | decState | decResult => rfl
  | decEstate => exact hstate
  | _ => exact h

theorem Field.identical.append {f : Field} {c c' : Codec} (h : f.identical c c') (hlen : c.decLen = c'.decLen)
    (hcnt : c.decCnt = c'.decCnt) (v : Byte) : f.identical (c.append v) (c'.append v) := by
  cases f with
  | decState => simp [Field.identical, Field.same, hlen, hcnt]
  | decCnt => exact congrArg (· + 1) h
  | rxcsSum => exact congrArg (csAdd · v) h
  | rxbuf => exact congrArg₂ (fun m a => Memory.write m a.toNat v) h hcnt
  | _ => exact h

theorem Field.identical.setChecksums {f : Field} {c c' : Codec} {expected expected' : Byte} (h : f.identical c c')
    (received : Byte) (hexpected : expected = expected') :
    f.identical { c with decReceived := received, decExpected := expected }
      { c' with decReceived := received, decExpected := expected' } := by
  cases f with
  | decExpectedReceived => exact ⟨hexpected, rfl⟩
  | _ => exact h

/-- What the encoder's move leaves in a field depends on that field and on what `ENC.STEP` reads (42_encoder.md R177). -/
theorem Field.identical.encMove {f : Field} {c c' : Codec} (h : f.identical c c')
    (hreads : ∀ g ∈ reads .encStep, g.identical c c') :
    Option.Rel (fun m m' => f.identical m.1 m'.1) c.encMove c'.encMove := by
  simp only [reads, List.forall_mem_cons, Field.identical, Field.same] at hreads
  obtain ⟨-, hstate, hlen, hcnt, -, -, hbuf, -⟩ := hreads
  have hafter (n : Nat) : c.encAfter n = c'.encAfter n := by simp only [Codec.encAfter, hlen]
  unfold Codec.encMove
  rw [← hstate]
  cases c.encState with
  | idle => exact .none
  | delim | len0 | csum => exact .some (h.setEncState rfl)
  | len1 => exact .some (h.setEncState (hafter 0))
  | esc => exact .some (h.setEncState (by rw [hafter, hcnt]))
  | data =>
    have hbyte : c.readTx c.encCnt = c'.readTx c'.encCnt := by rw [hcnt, Codec.readTx_congr c c' hbuf]
    refine .some ?_
    simp only [Codec.encData, hbyte]
    split
    · cases f with
      | txcsSum => exact congrArg (csAdd · _) h
      | encCnt => exact congrArg (· + 1) h
      | encHold | encState => rfl
      | _ => exact h
    · cases f with
      | txcsSum => exact congrArg (csAdd · _) h
      | encCnt => exact congrArg (· + 1) h
      | encState => exact (hafter _).trans (by rw [hcnt])
      | _ => exact h

/-- What the decoder's move leaves in a field depends on that field and on what `DEC.BYTE` reads (43_decoder.md R215). -/
theorem Field.identical.decMove {f : Field} {c c' : Codec} (h : f.identical c c') (d : Byte)
    (hreads : ∀ g ∈ reads (.decByte d), g.identical c c') :
    Option.Rel (fun m m' => f.identical m.1 m'.1) (c.decMove d) (c'.decMove d) := by
  simp only [reads, List.forall_mem_cons, Field.identical, Field.same] at hreads
  obtain ⟨hcfg, hstate, hlen, hcnt, hsum, -⟩ := hreads
  unfold Codec.decMove
  rw [← hstate]
  cases c.decState with
  | idle => exact .none
  | delim =>
    refine .some ?_
    unfold Codec.takeDelim
    split
    · exact h.setDecState rfl
    · exact h.endInError hstate .framing
  | len0 => exact .some (h.setLength (congrArg (lenAfterFirst · d) hcfg) rfl)
  | len1 =>
    have hn : lenAfterSecond c.cfgLenbe c.decLen d = lenAfterSecond c'.cfgLenbe c'.decLen d := by rw [hcfg, hlen]
    exact .some (h.setLength hn (by rw [hn]))
  | data =>
    refine .some ?_
    unfold Codec.takeData
    split
    · exact h.setDecState rfl
    · exact h.append hlen hcnt d
  | esc => exact .some (h.append hlen hcnt (x20 d))
  | csum =>
    have hjudged := h.setChecksums d (congrArg csFin hsum)
    have hver : csVer c.rxcsSum.toNat d = csVer c'.rxcsSum.toNat d := by rw [hsum]
    refine .some ?_
    simp only [Codec.takeCsum, hver]
    split
    · cases f with
      | decState | decResult => rfl
      | _ => exact hjudged
    · exact hjudged.endInError hstate .checksum

theorem issue_identical {i : Instr} {s t : State} {f : Field} (hreads : ∀ g ∈ reads i, g.identical s.codec t.codec)
    (hf : f.identical s.codec t.codec) : f.identical (issue i s).codec (issue i t).codec := by
  by_cases hwrites : f ∉ writes i
  · exact ((issue_keeps s hwrites).symm.trans hf).trans (issue_keeps t hwrites)
  cases i with
  | csFinalize | csVerify | escNeeds | escOut | escIn | txbRd | rxbRd | csrRd => simp [writes] at hwrites
  | csReset =>
    cases f with
    | cs0Sum => rfl
    | _ => exact hf
  | csAdd d =>
    cases f with
    | cs0Sum => exact congrArg (· + d) hf
    | _ => exact hf
  | encStart n =>
    have hbusy := Codec.encBusy_congr (hreads .encState (by simp [reads]))
    simp only [issue_encStart, hbusy]
    split
    · exact hf
    · cases f with
      | encState | encLen | encCnt | txcsSum => rfl
      | _ => exact hf
  | encStep =>
    have hmoves := hf.encMove hreads
    rw [issue_encStep, issue_encStep]
    generalize s.codec.encMove = m, t.codec.encMove = m' at hmoves ⊢
    cases hmoves with
    | some hmove => exact hmove
    | none => exact hf
  | decStart =>
    have hbusy := Codec.decBusy_congr (hreads .decState (by simp [reads]))
    simp only [issue_decStart, hbusy]
    split
    · exact hf
    · cases f with
      | decState | decLen | decCnt | rxcsSum | decResult | decEstate => rfl
      | decExpectedReceived => exact ⟨rfl, rfl⟩
      | _ => exact hf
  | decByte d =>
    have hmoves := hf.decMove d hreads
    rw [issue_decByte, issue_decByte]
    generalize s.codec.decMove d = m, t.codec.decMove d = m' at hmoves ⊢
    cases hmoves with
    | some hmove => exact hmove
    | none => exact hf
  | decTimeout =>
    have hstate : s.codec.decState = t.codec.decState := hreads .decState (by simp [reads])
    simp only [issue_decTimeout, Codec.decBusy_congr hstate]
    split
    · exact hf.endInError hstate .timeout
    · exact hf
  | txbWr a d =>
    have hbusy := Codec.encBusy_congr (hreads .encState (by simp [reads]))
    simp only [issue_txbWr, hbusy]
    split
    · exact hf
    · cases f with
      | txbuf => exact congrArg (Memory.write · a.toNat d) hf
      | _ => exact hf
  | csrWr a d =>
    have henc := Codec.encBusy_congr (hreads .encState (by simp [reads]))
    have hdec := Codec.decBusy_congr (hreads .decState (by simp [reads]))
    simp only [issue_csrWr, henc, hdec]
    split_ifs
    case neg =>
      cases f with
      | cfg => rfl
      | _ => exact hf
    all_goals exact hf

/-! ### The wires -/

/-- `ENC.STEP` puts the byte of its move on the transmit wire. -/
theorem issue_encStep_txWire (s : State) :
    (issue .encStep s).txWire = s.txWire ++ (s.codec.encMove.map Prod.snd).toList := by
  rw [issue_encStep]
  split <;> next hmove => simp [hmove]

/-- `DEC.BYTE` takes its byte off the receive wire where the decoder is armed. -/
theorem issue_decByte_rxWire (d : Byte) (s : State) :
    (issue (.decByte d) s).rxWire = s.rxWire ++ if s.codec.decBusy then [d] else [] := by
  by_cases hidle : s.codec.decState = .idle
  · simp [issue_decByte_of_idle d hidle, hidle, refused]
  · obtain ⟨c, r, hmove⟩ := exists_decMove d hidle
    simp [issue_decByte_of_decMove hmove, hidle, taken]

theorem issue_txWire_congr {i : Instr} {s t : State} (hreads : ∀ g ∈ reads i, g.same s.codec t.codec)
    (hwire : s.txWire = t.txWire) : (issue i s).txWire = (issue i t).txWire := by
  by_cases hi : i = .encStep
  · subst hi
    rw [issue_encStep_txWire, issue_encStep_txWire, Codec.encMove_byte_congr hreads, hwire]
  · rw [issue_txWire s hi, issue_txWire t hi, hwire]

theorem issue_rxWire_congr {i : Instr} {s t : State} (hreads : ∀ g ∈ reads i, g.same s.codec t.codec)
    (hwire : s.rxWire = t.rxWire) : (issue i s).rxWire = (issue i t).rxWire := by
  by_cases hi : ∃ d, i = .decByte d
  · obtain ⟨d, rfl⟩ := hi
    have hbusy := Codec.decBusy_congr (hreads .decState (by simp [reads]))
    rw [issue_decByte_rxWire, issue_decByte_rxWire, hbusy, hwire]
  · rw [issue_rxWire s (not_exists.mp hi), issue_rxWire t (not_exists.mp hi), hwire]

/-! ### Operations that do not meet in the table commute -/

/-- Neither operation writes a field that the other reads, and they write no field in common (10_state.md R23). -/
def Independent (i j : Instr) : Prop :=
  (writes i).Disjoint (reads j) ∧ (writes j).Disjoint (reads i) ∧ (writes i).Disjoint (writes j)

/-- An operation leaves what another one reads. -/
theorem issue_keeps_reads {i j : Instr} (s : State) (h : (writes i).Disjoint (reads j)) :
    ∀ g ∈ reads j, g.identical (issue i s).codec s.codec :=
  fun _ hg => (issue_keeps s fun hw => h hw hg).symm

section
variable {i j : Instr} (s : State) (h : (writes i).Disjoint (reads j))
include h

/-- In what `i` does not write, `j` does the same after `i` as before it. -/
theorem issue_comm_identical {f : Field} (hf : f ∉ writes i) :
    f.identical (issue j (issue i s)).codec (issue i (issue j s)).codec :=
  (issue_identical (issue_keeps_reads s h) (issue_keeps s hf).symm).trans (issue_keeps (issue j s) hf)

theorem issue_comm_txWire (hi : i ≠ .encStep) : (issue j (issue i s)).txWire = (issue i (issue j s)).txWire := by
  rw [issue_txWire (issue j s) hi]
  exact issue_txWire_congr (fun g hg => (issue_keeps_reads s h g hg).same) (issue_txWire s hi)

theorem issue_comm_rxWire (hi : ∀ d, i ≠ .decByte d) :
    (issue j (issue i s)).rxWire = (issue i (issue j s)).rxWire := by
  rw [issue_rxWire (issue j s) hi]
  exact issue_rxWire_congr (fun g hg => (issue_keeps_reads s h g hg).same) (issue_rxWire s hi)

theorem answer_after : answer j s = answer j (issue i s) :=
  responseDependsOnlyOnFieldsRead j s (issue i s) fun g hg => (issue_keeps_reads s h g hg).symm.same

end

/-- Independent operations can be issued in either order: each field is left alone by one of the two, and each wire. -/
theorem Independent.commute {i j : Instr} (h : Independent i j) (s : State) :
    (issue j (issue i s)).codec = (issue i (issue j s)).codec ∧
    (issue j (issue i s)).txWire = (issue i (issue j s)).txWire ∧
    (issue j (issue i s)).rxWire = (issue i (issue j s)).rxWire ∧
    answer i s = answer i (issue j s) ∧ answer j s = answer j (issue i s) := by
  obtain ⟨hij, hji, hboth⟩ := h
  refine ⟨Codec.eq_of_identical fun f => ?_, ?_, ?_, answer_after s hji, answer_after s hij⟩
  · by_cases hf : f ∈ writes i
    · exact (issue_comm_identical s hji fun hf' => hboth hf hf').symm
    · exact issue_comm_identical s hij hf
  · by_cases hi : i = .encStep
    · have hj : j ≠ .encStep := fun hj => hboth (a := .encState) (by simp [hi, writes]) (by simp [hj, writes])
      exact (issue_comm_txWire s hji hj).symm
    · exact issue_comm_txWire s hij hi
  · by_cases hi : ∃ d, i = .decByte d
    · obtain ⟨d, rfl⟩ := hi
      have hj (d') : j ≠ .decByte d' := fun hj => hboth (a := .decState) (by simp [writes]) (by simp [hj, writes])
      exact (issue_comm_rxWire s hji hj).symm
    · exact issue_comm_rxWire s hij (not_exists.mp hi)

/-! ### The two directions and the components in the table -/

/-- The operation writes only fields of `fs`, and reads none but these and `CFG`. -/
def Within (fs : List Field) (i : Instr) : Prop := (∀ f ∈ reads i, f ∈ Field.cfg :: fs) ∧ ∀ f ∈ writes i, f ∈ fs

theorem Within.independent {fs gs : List Field} {i j : Instr} (hi : Within fs i) (hj : Within gs j)
    (h : ∀ f ∈ fs, f ∉ Field.cfg :: gs) (h' : Field.cfg ∉ gs) : Independent i j := by
  refine ⟨fun f hw hr => h f (hi.2 f hw) (hj.1 f hr), fun f hw hr => ?_,
    fun f hw hw' => h f (hi.2 f hw) (List.mem_cons_of_mem _ (hj.2 f hw'))⟩
  obtain rfl | hfs := List.mem_cons.mp (hi.1 f hr)
  · exact h' (hj.2 _ hw)
  · exact h f hfs (List.mem_cons_of_mem _ (hj.2 f hw))

theorem csrOfNumber_eq_some {a : Half} {r : Csr} (h : csrOfNumber a = some r) : r.number = a := by
  have ha : a.toNat ≤ 0x000D := not_lt.mp fun hlt => by simp [csrOfNumber_eq_none hlt] at h
  obtain ⟨r', hr', hnumber⟩ := exists_csrOfNumber_eq_some ha
  rwa [← Option.some.inj (hr'.symm.trans h)]

/-- A `CSR.RD` keeps to the fields shown by the registers in the range of its number. -/
theorem within_csrRd {fs : List Field} {a : Half} {lo hi : Nat} (ha : lo ≤ a.toNat ∧ a.toNat ≤ hi)
    (h : ∀ r : Csr, lo ≤ r.number.toNat → r.number.toNat ≤ hi → r.field ∈ fs) : Within fs (.csrRd a) := by
  refine ⟨fun f hf => List.mem_cons_of_mem _ ?_, by simp [writes]⟩
  simp only [reads, Option.mem_toList, Option.map_eq_some_iff] at hf
  obtain ⟨r, hr, rfl⟩ := hf
  rw [← csrOfNumber_eq_some hr] at ha
  exact h r ha.1 ha.2

theorem within_of_encoderSide {i : Instr} (h : encoderSide i = true) : Within encoderFields i := by
  cases i with
  | encStart | encStep | txbWr | txbRd => simp [Within, reads, writes, encoderFields]
  | csrRd a =>
    refine within_csrRd (by simpa [encoderSide] using h) fun r => ?_
    cases r <;> decide
  | _ => cases h

theorem within_of_decoderSide {i : Instr} (h : decoderSide i = true) : Within decoderFields i := by
  cases i with
  | decStart | decByte | decTimeout | rxbRd => simp [Within, reads, writes, decoderFields]
  | csrRd a =>
    refine within_csrRd (by simpa [decoderSide] using h) fun r => ?_
    cases r <;> decide
  | _ => cases h

theorem within_of_componentSide {i : Instr} (h : componentSide i = true) : Within [.cs0Sum] i := by
  cases i with
  | csReset | csAdd | csFinalize | csVerify | escNeeds | escOut | escIn => simp [Within, reads, writes]
  | _ => cases h

/-! ### One direction of an interleaving -/

/-- A relation between two machines that the operations selected keep when both machines issue them, and that the others
keep when only the first does, relates a list of operations to those selected from it. -/
theorem issueAll_filter {R : State → State → Prop} {p : Instr → Bool} (is : List Instr) {s t : State}
    (hboth : ∀ i ∈ is, p i = true → ∀ s t, R s t → R (issue i s) (issue i t))
    (hone : ∀ i ∈ is, p i = false → ∀ s t, R s t → R (issue i s) t) (h : R s t) :
    R (issueAll is s) (issueAll (is.filter p) t) := by
  induction is generalizing s t with
  | nil => exact h
  | cons i is ih =>
    obtain ⟨hi, his⟩ := List.forall_mem_cons.mp hboth
    obtain ⟨hi', his'⟩ := List.forall_mem_cons.mp hone
    cases hp : p i with
    | true =>
      rw [List.filter_cons_of_pos hp]
      exact ih his his' (hi hp s t h)
    | false =>
      rw [List.filter_cons_of_neg (by simp [hp])]
      exact ih his his' (hi' hp s t h)

/-- Two machines hold the same data in the fields `fs` and in `CFG`. -/
def Alike (fs : List Field) (s t : State) : Prop := ∀ f ∈ Field.cfg :: fs, f.identical s.codec t.codec

theorem Alike.same {fs : List Field} {s t : State} (h : Alike fs s t) : ∀ f ∈ fs, f.same s.codec t.codec :=
  fun f hf => (h f (List.mem_cons_of_mem _ hf)).same

theorem Alike.agree_on_reads {fs : List Field} {s t : State} {i : Instr} (h : Alike fs s t) (hi : Within fs i) :
    ∀ f ∈ reads i, f.identical s.codec t.codec := fun f hf => h f (hi.1 f hf)

theorem Alike.after_both {fs : List Field} {s t : State} {i : Instr} (h : Alike fs s t) (hi : Within fs i) :
    Alike fs (issue i s) (issue i t) := fun f hf => issue_identical (h.agree_on_reads hi) (h f hf)

theorem Alike.after_first {fs : List Field} {s t : State} {i : Instr} (h : Alike fs s t)
    (hi : ∀ f ∈ writes i, f ∉ Field.cfg :: fs) : Alike fs (issue i s) t :=
  fun f hf => (issue_keeps s fun hw => hi f hw hf).symm.trans (h f hf)

theorem encoderSide_of_movesEncoder {i : Instr} (h : movesEncoder i = true) : encoderSide i = true := by
  cases i with
  | encStart | encStep | txbWr => rfl
  | _ => cases h

theorem decoderSide_of_movesDecoder {i : Instr} (h : movesDecoder i = true) : decoderSide i = true := by
  cases i with
  | decStart | decByte | decTimeout => rfl
  | _ => cases h

theorem writes_of_not_movesEncoder {i : Instr} (h : movesEncoder i = false) (hcsr : isCsrWr i = false) :
    ∀ f ∈ writes i, f ∉ Field.cfg :: encoderFields := by
  cases i with
  | encStart | encStep | txbWr => cases h
  | csrWr => cases hcsr
  | _ => simp [writes, encoderFields]

theorem writes_of_not_movesDecoder {i : Instr} (h : movesDecoder i = false) (hcsr : isCsrWr i = false) :
    ∀ f ∈ writes i, f ∉ Field.cfg :: decoderFields := by
  cases i with
  | decStart | decByte | decTimeout => cases h
  | csrWr => cases hcsr
  | _ => simp [writes, decoderFields]

/-- The encoder and the transmit wire of an interleaving are those of its encode commands alone. -/
theorem issueAll_filter_movesEncoder (is : List Instr) (s : State) (h : ∀ i ∈ is, isCsrWr i = false) :
    Alike encoderFields (issueAll is s) (issueAll (is.filter movesEncoder) s) ∧
    (issueAll is s).txWire = (issueAll (is.filter movesEncoder) s).txWire := by
  refine issueAll_filter (R := fun s t => Alike encoderFields s t ∧ s.txWire = t.txWire) is
    (fun i _ hp s t ⟨halike, hwire⟩ => ?_) (fun i hi hp s t ⟨halike, hwire⟩ => ?_)
    ⟨fun f _ => f.identical_refl _, rfl⟩
  · have hwithin := within_of_encoderSide (encoderSide_of_movesEncoder hp)
    exact ⟨halike.after_both hwithin, issue_txWire_congr (fun f hf => (halike.agree_on_reads hwithin f hf).same) hwire⟩
  · have hstep : i ≠ .encStep := fun hstep => by simp [hstep, movesEncoder] at hp
    exact ⟨halike.after_first (writes_of_not_movesEncoder hp (h i hi)), (issue_txWire s hstep).trans hwire⟩

/-- The decoder and the receive wire of an interleaving are those of its decode commands alone. -/
theorem issueAll_filter_movesDecoder (is : List Instr) (s : State) (h : ∀ i ∈ is, isCsrWr i = false) :
    Alike decoderFields (issueAll is s) (issueAll (is.filter movesDecoder) s) ∧
    (issueAll is s).rxWire = (issueAll (is.filter movesDecoder) s).rxWire := by
  refine issueAll_filter (R := fun s t => Alike decoderFields s t ∧ s.rxWire = t.rxWire) is
    (fun i _ hp s t ⟨halike, hwire⟩ => ?_) (fun i hi hp s t ⟨halike, hwire⟩ => ?_)
    ⟨fun f _ => f.identical_refl _, rfl⟩
  · have hwithin := within_of_decoderSide (decoderSide_of_movesDecoder hp)
    exact ⟨halike.after_both hwithin, issue_rxWire_congr (fun f hf => (halike.agree_on_reads hwithin f hf).same) hwire⟩
  · have hbyte (d) : i ≠ .decByte d := fun hbyte => by simp [hbyte, movesDecoder] at hp
    exact ⟨halike.after_first (writes_of_not_movesDecoder hp (h i hi)), (issue_rxWire s hbyte).trans hwire⟩

/-! ### The statements -/

/-- Settles O17, by induction on the list for each direction: its commands do the same on machines alike in what it owns,
and no other command of the list writes that. -/
theorem interleavingIsEachDirectionAlone : Obligations.InterleavingIsEachDirectionAlone := by
  unfold Obligations.InterleavingIsEachDirectionAlone
  intro is s h
  obtain ⟨hencoder, htx⟩ := issueAll_filter_movesEncoder is s h
  obtain ⟨hdecoder, hrx⟩ := issueAll_filter_movesDecoder is s h
  exact ⟨hencoder.same, htx, hdecoder.same, hrx⟩

/-- Settles O16: the two directions and the components keep to fields of their own, beside `CFG`, which none of them
writes. -/
theorem directionsCommute : Obligations.DirectionsCommute := by
  unfold Obligations.DirectionsCommute
  intro i j s hsides
  refine Independent.commute ?_ s
  obtain ⟨hi, hj⟩ | ⟨hi, hj | hj⟩ := hsides
  · exact (within_of_encoderSide hi).independent (within_of_decoderSide hj) (by decide) (by decide)
  · exact (within_of_componentSide hi).independent (within_of_encoderSide hj) (by decide) (by decide)
  · exact (within_of_componentSide hi).independent (within_of_decoderSide hj) (by decide) (by decide)

end Sys2Proof.Machine
end

section
/-! PROOFS. Reset and the transport's duty (70_reset_and_hazards.md): an armed decoder that waits, the services that end
its decode at the latest, the state after reset, and the statements of R300, R302 and R315. -/

namespace Sys2Proof.Machine

/-! ### An armed decoder waits (70_reset_and_hazards.md R315) -/

/-- From `s` to `t` the decoder has only waited: it, `CFG` and the receive wire are as they were. -/
structure Waits (s t : State) : Prop where
  same : ∀ f ∈ .cfg :: decoderFields, f.same s.codec t.codec
  rxWire : t.rxWire = s.rxWire

theorem Waits.refl (s : State) : Waits s s := ⟨fun f _ => f.same_refl s.codec, rfl⟩

theorem Waits.trans {s t u : State} (h : Waits s t) (h' : Waits t u) : Waits s u :=
  ⟨fun f hf => Field.same_trans (h.same f hf) (h'.same f hf), h'.rxWire.trans h.rxWire⟩

theorem Waits.decState {s t : State} (h : Waits s t) : t.codec.decState = s.codec.decState :=
  (h.same .decState (by decide)).symm

/-- An update outside `CFG` and what the decoder owns leaves the decoder waiting. -/
theorem Waits.of_changesOnly {s t : State} {fs : List Field} (h : s.codec.ChangesOnly fs t.codec)
    (hfs : ∀ f ∈ .cfg :: decoderFields, f ∉ fs) (hwire : t.rxWire = s.rxWire) : Waits s t :=
  ⟨fun f hf => h f (hfs f hf), hwire⟩

/-- No operation but `DEC.BYTE` and `DEC.TIMEOUT` reaches an armed decoder: `DEC.START` and `CSR.WR` make their updates
only while it is idle. -/
theorem issue_waits {i : Instr} {s : State} (hbusy : s.codec.decState ≠ .idle) (hserve : servesDecoder i = false) :
    Waits s (issue i s) := by
  have heffect := issue_effect i s
  generalize issue i s = t at heffect ⊢
  cases heffect with
  | respond => exact ⟨fun f _ => f.same_refl s.codec, rfl⟩
  | setSum _ v => exact .of_changesOnly (Codec.changesOnly_cs0Sum _ v) (by decide) rfl
  | store a d => exact .of_changesOnly (Codec.changesOnly_writeTx _ a d) (by decide) rfl
  | startFrame n => exact .of_changesOnly (Codec.changesOnly_startFrame _ n) (by decide) rfl
  | emit c b hmove => exact .of_changesOnly (Codec.changesOnly_of_encMove hmove) (by decide) rfl
  | setOrder a d henc hdec => exact absurd hdec hbusy
  | arm hdec => exact absurd hdec hbusy
  | take | timeout => exact absurd hserve nofun

theorem service_command_of_decodes {w : Word} {i : Instr} (h : decode w = .ok i) :
    (PortEvent.command w).service = servesDecoder i := by
  simp only [PortEvent.service, h]

theorem receive_waits {e : PortEvent} {s : State} (hbusy : s.codec.decState ≠ .idle) (hserve : e.service = false)
    (hreset : e ≠ .reset) : Waits s (receive e s) := by
  cases e with
  | reset => exact absurd rfl hreset
  | command w =>
    cases hd : decode w with
    | ok i =>
      rw [receive_command_of_decodes w i s hd]
      exact issue_waits hbusy (service_command_of_decodes hd ▸ hserve)
    | error e =>
      rw [receive_command_of_illegal w e s hd]
      exact ⟨fun f _ => f.same_refl s.codec, rfl⟩

theorem receiveAll_waits {es : List PortEvent} {s : State} (hbusy : s.codec.decState ≠ .idle)
    (hes : ∀ e ∈ es, e.service = false ∧ e ≠ .reset) : Waits s (receiveAll es s) := by
  induction es generalizing s with
  | nil => exact .refl s
  | cons e es ih =>
    rw [List.forall_mem_cons] at hes
    obtain ⟨⟨hserve, hreset⟩, hes⟩ := hes
    have hwaits := receive_waits hbusy hserve hreset
    exact hwaits.trans (ih (by rwa [hwaits.decState]) hes)

/-! ### The services an armed decoder still waits for (43_decoder.md R220) -/

/-- The largest number of `DEC.BYTE` and `DEC.TIMEOUT` the decode in progress can still take: every payload byte to come
may be escaped, and the length is not known before its second byte. -/
def Codec.servicesLeft (c : Codec) : Nat :=
  match c.decState with
  | .idle => 0
  | .delim => 4 + 2 * Config.payloadMax
  | .len0 => 3 + 2 * Config.payloadMax
  | .len1 => 2 + 2 * Config.payloadMax
  | .data | .csum => 1 + 2 * (c.decLen.toNat - c.decCnt.toNat)
  | .esc => 2 * (c.decLen.toNat - c.decCnt.toNat)

theorem Codec.servicesLeft_of_csum_or_data {c : Codec} (h : c.decState = .csum ∨ c.decState = .data) :
    c.servicesLeft = 1 + 2 * (c.decLen.toNat - c.decCnt.toNat) := by
  obtain h | h := h <;> rw [Codec.servicesLeft, h]

theorem Codec.servicesLeft_of_esc {c : Codec} (h : c.decState = .esc) :
    c.servicesLeft = 2 * (c.decLen.toNat - c.decCnt.toNat) := by
  rw [Codec.servicesLeft, h]

/-- No frame takes more bytes than the longest one (43_decoder.md R220). -/
theorem Codec.servicesLeft_le (c : Codec) : c.servicesLeft ≤ 4 + 2 * Config.payloadMax := by
  have hlen := c.decLen.isLt
  unfold Codec.servicesLeft Config.payloadMax
  split <;> omega

theorem Waits.servicesLeft {s t : State} (h : Waits s t) : t.codec.servicesLeft = s.codec.servicesLeft := by
  have hlen : s.codec.decLen = t.codec.decLen := h.same .decLen (by decide)
  have hcnt : s.codec.decCnt = t.codec.decCnt := h.same .decCnt (by decide)
  simp only [Codec.servicesLeft, h.decState, hlen, hcnt]

/-- An armed decoder waits for at least one service: in `D_ESC` a payload byte is missing. -/
theorem DecoderInv.servicesLeft_pos {c : Codec} (h : DecoderInv c) (hbusy : c.decState ≠ .idle) :
    0 < c.servicesLeft := by
  cases hs : c.decState with
  | idle => exact absurd hs hbusy
  | delim | len0 | len1 =>
    rw [Codec.servicesLeft, hs]
    exact Nat.add_pos_left (by decide) _
  | data => rw [Codec.servicesLeft_of_csum_or_data (.inr hs)]; omega
  | csum => rw [Codec.servicesLeft_of_csum_or_data (.inl hs)]; omega
  | esc =>
    have hlt := h.payload (.inr hs)
    rw [Codec.servicesLeft_of_esc hs]
    omega

/-- After a payload byte one byte of the payload fewer is missing. -/
theorem Codec.servicesLeft_append {c : Codec} (hlt : c.decCnt.toNat < c.decLen.toNat) (v : Byte) :
    (c.append v).servicesLeft + 1 = 2 * (c.decLen.toNat - c.decCnt.toNat) := by
  rw [Codec.servicesLeft_of_csum_or_data (c.append_decState_eq_csum_or_data v), Codec.append_decLen,
    Codec.append_decCnt, toNat_succ_of_lt hlt]
  omega

/-- Every move takes one of the services left, by the edges of the decoder's table. -/
theorem DecoderInv.servicesLeft_decMove_lt {c c' : Codec} {d : Byte} {r : DecResult} (h : DecoderInv c)
    (hmove : c.decMove d = some (c', r)) : c'.servicesLeft < c.servicesLeft := by
  have hpos := h.servicesLeft_pos (decState_ne_idle_of_decMove hmove)
  rcases c.decMove_cases c' d r hmove with ⟨hs, -, -, rfl⟩ | ⟨-, -, -, rfl⟩ | ⟨hs, -, rfl⟩ | ⟨hs, -, rfl⟩ |
    ⟨hs, -, -, rfl⟩ | ⟨hs, -, -, rfl⟩ | ⟨hs, -, rfl⟩ | ⟨-, -, -, rfl⟩ | ⟨-, -, -, rfl⟩
  · simp [Codec.servicesLeft, hs]
  · exact hpos
  · simp [Codec.servicesLeft, hs]
  · have hlen := (lenAfterSecond c.cfgLenbe c.decLen d).isLt
    rw [Codec.servicesLeft_of_csum_or_data (by dsimp only; split <;> simp), Codec.servicesLeft, hs]
    simp only [Config.payloadMax]
    omega
  · rw [Codec.servicesLeft_of_esc rfl, Codec.servicesLeft_of_csum_or_data (.inr hs)]
    exact Nat.lt_add_of_pos_left Nat.one_pos
  · have happend := Codec.servicesLeft_append (h.payload (.inl hs)) d
    rw [Codec.servicesLeft_of_csum_or_data (.inr hs)]
    omega
  · have happend := Codec.servicesLeft_append (h.payload (.inr hs)) (x20 d)
    rw [Codec.servicesLeft_of_esc hs]
    omega
  · exact hpos
  · exact hpos

theorem DecoderInv.servicesLeft_issue_lt {s : State} {i : Instr} (h : DecoderInv s.codec)
    (hbusy : s.codec.decState ≠ .idle) (hserve : servesDecoder i = true) :
    (issue i s).codec.servicesLeft < s.codec.servicesLeft := by
  obtain ⟨d, rfl⟩ | rfl := (servesDecoder_iff i).mp hserve
  · obtain ⟨c, r, hmove⟩ := exists_decMove d hbusy
    rw [issue_decByte_of_decMove hmove]
    exact h.servicesLeft_decMove_lt hmove
  · rw [issue_decTimeout_of_busy hbusy]
    exact h.servicesLeft_pos hbusy

/-- A service takes one of the services left; no other event adds one, and a reset leaves none. -/
theorem DecoderInv.servicesLeft_receive_add_le {s : State} (h : DecoderInv s.codec) (hbusy : s.codec.decState ≠ .idle)
    (e : PortEvent) :
    (receive e s).codec.servicesLeft + (if e.service then 1 else 0) ≤ s.codec.servicesLeft := by
  cases e with
  | reset => exact Nat.zero_le _
  | command w =>
    by_cases hserve : (PortEvent.command w).service = true
    · rw [if_pos hserve]
      cases hd : decode w with
      | error e => simp [PortEvent.service, hd] at hserve
      | ok i =>
        rw [receive_command_of_decodes w i s hd]
        exact h.servicesLeft_issue_lt hbusy (service_command_of_decodes hd ▸ hserve)
    · rw [if_neg hserve]
      exact (receive_waits hbusy (eq_false_of_ne_true hserve) nofun).servicesLeft.le

/-- A decoder that gets as many services as are left is idle at some point, by induction on the events. -/
theorem exists_idle_of_servicesLeft_le {es : List PortEvent} {s : State} (h : s.codec.Inv)
    (hles : s.codec.servicesLeft ≤ es.countP PortEvent.service) :
    ∃ k, k ≤ es.length ∧ (receiveAll (es.take k) s).codec.decState = .idle := by
  induction es generalizing s with
  | nil =>
    refine ⟨0, Nat.le_refl 0, ?_⟩
    by_contra hbusy
    exact (h.decoder.servicesLeft_pos hbusy).not_ge hles
  | cons e es ih =>
    by_cases hidle : s.codec.decState = .idle
    · exact ⟨0, Nat.zero_le _, hidle⟩
    · have hstep := h.decoder.servicesLeft_receive_add_le hidle e
      rw [List.countP_cons] at hles
      obtain ⟨k, hk, hend⟩ := ih (h.receive e) (Nat.le_of_add_le_add_right (hstep.trans hles))
      exact ⟨k + 1, Nat.succ_le_succ hk, hend⟩

/-! ### A fair transport -/

theorem Codec.Inv.receiveFirst {s : State} (h : s.codec.Inv) (arrivals : Nat → PortEvent) (k : Nat) :
    (receiveFirst arrivals k s).codec.Inv := by
  induction k with
  | zero => exact h
  | succ k ih => exact ih.receive (arrivals k)

section
variable {arrivals : Nat → PortEvent} {s : State} {k : Nat}

/-- While a decoder stays armed the services left only fall. -/
theorem servicesLeft_receiveFirst_le (h : s.codec.Inv)
    (hbusy : ∀ m, k ≤ m → (receiveFirst arrivals m s).codec.decState ≠ .idle) {m : Nat} (hm : k ≤ m) :
    (receiveFirst arrivals m s).codec.servicesLeft ≤ (receiveFirst arrivals k s).codec.servicesLeft := by
  induction m, hm using Nat.le_induction with
  | base => exact Nat.le_refl _
  | succ m hm ih =>
    have hstep := (h.receiveFirst arrivals m).decoder.servicesLeft_receive_add_le (hbusy m hm) (arrivals m)
    exact (Nat.le_of_add_right_le hstep).trans ih

/-- A fair transport takes any number of the services left from a decoder that stays armed. -/
theorem TransportFair.exists_servicesLeft_add_le (hfair : TransportFair arrivals s) (h : s.codec.Inv)
    (hbusy : ∀ m, k ≤ m → (receiveFirst arrivals m s).codec.decState ≠ .idle) (j : Nat) :
    ∃ m, k ≤ m ∧
      (receiveFirst arrivals m s).codec.servicesLeft + j ≤ (receiveFirst arrivals k s).codec.servicesLeft := by
  induction j with
  | zero => exact ⟨k, Nat.le_refl k, Nat.le_refl _⟩
  | succ j ih =>
    obtain ⟨m, hkm, hle⟩ := ih
    obtain ⟨n, hmn, hserve⟩ := hfair m ((Codec.decBusy_eq_true _).mpr (hbusy m hkm))
    have hkn := hkm.trans hmn
    have hwait := servicesLeft_receiveFirst_le h (fun n hn => hbusy n (hkm.trans hn)) hmn
    have hstep := (h.receiveFirst arrivals n).decoder.servicesLeft_receive_add_le (hbusy n hkn) (arrivals n)
    rw [if_pos hserve] at hstep
    exact ⟨n + 1, hkn.trans (Nat.le_succ n), by rw [receiveFirst]; omega⟩

end

/-! ### The state after reset (70_reset_and_hazards.md R300) -/

@[simp] theorem Codec.readTx_applyReset (c : Codec) (a : Half) : c.applyReset.readTx a = c.readTx a :=
  Codec.readTx_congr _ _ c.applyReset_txbuf a

@[simp] theorem Codec.readRx_applyReset (c : Codec) (a : Half) : c.applyReset.readRx a = c.readRx a :=
  Codec.readRx_congr _ _ c.applyReset_rxbuf a

theorem Codec.csrView_applyReset (c : Codec) (r : Csr) : c.applyReset.csrView r = 0 := by
  cases r <;> rfl

theorem exec_csrRd_applyReset (s : State) {a : Half} (ha : a.toNat ≤ 0x000D) :
    exec (.csrRd a) s.applyReset = .next (performed s.applyReset s.applyReset.codec 0) := by
  obtain ⟨r, hr, -⟩ := exists_csrOfNumber_eq_some ha
  rw [exec_eq_issue, issue_csrRd_of_some hr, State.applyReset_codec, Codec.csrView_applyReset]

/-! ### The statements -/

/-- Settles O60: other events leave the decoder waiting; every service takes one of the finitely many it can still wait
for, so a transport that keeps its duty cannot serve a decoder that stays armed for ever. -/
theorem armedDecoderWaitsForAFairTransport : Obligations.ArmedDecoderWaitsForAFairTransport := by
  unfold Obligations.ArmedDecoderWaitsForAFairTransport
  refine ⟨fun es s hbusy hes => ?_, fun es s h hcount => ?_, fun arrivals s h hfair k => ?_⟩
  · have hwaits := receiveAll_waits hbusy hes
    have hstill : (receiveAll es s).codec.decState ≠ .idle := by rwa [hwaits.decState]
    refine ⟨hwaits.same, hwaits.rxWire, ?_, fun d hd => ?_⟩
    · rw [exec_eq_issue, issue_decStart_of_busy hstill]
    · rw [exec_eq_issue, issue_csrWr_cfg_of_legal _ hd, if_pos (by simp [hstill])]
  · exact exists_idle_of_servicesLeft_le h (s.codec.servicesLeft_le.trans hcount)
  · by_contra! hbusy
    have hmore := hfair.exists_servicesLeft_add_le h hbusy ((receiveFirst arrivals k s).codec.servicesLeft + 1)
    obtain ⟨m, -, hle⟩ := hmore
    omega

/-- Settles O9: a step with a reset pending is that reset, and each register shows 0 after it. -/
theorem resetGivesEveryRegisterItsValue : Obligations.ResetGivesEveryRegisterItsValue := by
  unfold Obligations.ResetGivesEveryRegisterItsValue
  refine ⟨fun s rest hp => ⟨_, step_eq_receive s .reset rest hp, ?_⟩, rfl, fun a => ⟨rfl, rfl⟩⟩
  have hcsr (a : Half) (ha : a.toNat ≤ 0x000D) := exec_csrRd_applyReset { s with pending := rest } ha
  simpa using hcsr

/-- Settles O10: after reset the sum is 0, both directions are idle and there is no outcome; the frame of length 0 is
the delimiter, two length bytes and the checksum of nothing. -/
theorem answersRightAfterReset : Obligations.AnswersRightAfterReset := by
  unfold Obligations.AnswersRightAfterReset
  refine ⟨answer_csFinalize _, answer_encStep _, fun d => answer_decByte d _, answer_decTimeout _,
    fun a => answer_rxbRd a _, ?_⟩
  rfl

end Sys2Proof.Machine
end
